-- ==== Sys2Proof/Word.lean ====
section
/-! DEFINITION. The widths the spec names: bytes, 32-bit words, window offsets, tables, blocks and the state grid. -/

namespace Sys2Proof

/-- A byte is 8 bits, bit 0 the least significant (R8). -/
abbrev Byte := BitVec 8

/-- A word is 32 bits (R8); the host data bus carries one (R40). -/
abbrev Word := BitVec 32

/-- A byte offset in the 1 KiB register window, 0x000 to 0x3FF (R40). -/
abbrev Offset := BitVec 10

/-- A substitution table: 256 entries of 8 bits (R34, R35). -/
abbrev Table := Vector Byte 256

/-- A byte string of 16 bytes, indexed from 0: a key, an input block or an output block (R9, R28, R29, R30). -/
abbrev Block := Vector Byte 16

/-- The cipher state `s[r][c]`: a 4×4 grid of bytes, `r` the row and `c` the column (R12). -/
abbrev Grid := Vector (Vector Byte 4) 4

/-- The 44 key-schedule words, byte `j` of a word in bits `8j+7 : 8j` of its register (R11, R36). -/
abbrev Schedule := Vector Word 44

/-- The 64-bit value `MAT = MAT1 ++ MAT0`; `M[r][c]` is its bit `8r+c` (R31). -/
abbrev AffineMatrix := BitVec 64

end Sys2Proof
end

