-- ==== Sys2Proof/Machine/Lanes.lean ====
section
/-! DEFINITION. Byte lanes: how byte sequences sit in 32-bit registers (R43), and fixed-length vectors from a rule per entry. -/

namespace Sys2Proof.Machine

/-- The vector whose entry `i` is `f i`. -/
def tabulate {α : Type} {n : Nat} (f : Fin n → α) : Vector α n :=
  ⟨⟨List.ofFn f⟩, by simp⟩

/-- Byte `j` of a register is bits `8j+7 : 8j` (R43). -/
def lane (w : Word) (j : Fin 4) : Byte := w.extractLsb' (8 * j.val) 8

/-- The register whose byte `j` is `b j` (R43). -/
def packLanes (b : Fin 4 → Byte) : Word :=
  (b 0).setWidth 32 ||| ((b 1).setWidth 32 <<< 8) ||| ((b 2).setWidth 32 <<< 16) ||| ((b 3).setWidth 32 <<< 24)

/-- The register holding four bytes, the first in the lowest lane (R43). -/
def word4 (b0 b1 b2 b3 : Byte) : Word := packLanes fun j => #v[b0, b1, b2, b3][j]

/-- The 16 bytes four registers hold: byte `4j+b` is lane `b` of register `j` (R28, R29, R30). -/
def blockOfWords (ws : Vector Word 4) : Block :=
  tabulate fun i => lane (ws[i.val / 4]'(by omega)) ⟨i.val % 4, by omega⟩

/-- The four registers holding 16 bytes (R28, R29, R30). -/
def wordsOfBlock (b : Block) : Vector Word 4 :=
  tabulate fun j => packLanes fun k => b[4 * j.val + k.val]

/-- Window word `k` of a table holds entries `4k` to `4k+3` (R34, R35). -/
def tableWord (t : Table) (k : Fin 64) : Word :=
  packLanes fun b => t[4 * k.val + b.val]

/-- Writing window word `k` writes entries `4k` to `4k+3` (R47). -/
def setTableWord (t : Table) (k : Fin 64) (v : Word) : Table :=
  (((t.set (4 * k.val) (lane v 0)).set (4 * k.val + 1) (lane v 1)).set (4 * k.val + 2) (lane v 2)).set
    (4 * k.val + 3) (lane v 3)

end Sys2Proof.Machine
end

