-- ==== Sys2Proof/Syntax.lean ====
section
/-! DEFINITION. The commands of AESX-CMD revision 1, one constructor per row of the opcode table. -/

namespace Sys2Proof

/-- The 19 commands (R59). Every operand but the round of ADDROUNDKEY is implicit (R58, R60); the round is the index
`n = zext_8(CMD[11:8])` of R58. -/
inductive Instr where
  | nop
  | construct
  | detpar
  | validate
  | invert
  | keyexp
  | encrypt
  | decrypt
  | subbytes
  | invsubbytes
  | shiftrows
  | invshiftrows
  | mixcolumns
  | invmixcolumns
  | addroundkey (n : BitVec 8)
  | gfinv
  | gfmul
  | affine
  | affinv
  deriving DecidableEq, Repr

end Sys2Proof
end

