-- ==== Sys2Proof/WellFormed.lean ====
section
/-! DEFINITION. Which commands have an encoding. -/

namespace Sys2Proof

/-- A command a CMD word can hold. Only the round index can be out of reach: ARG has 4 bits, so `n` is 0..15 (R57, R58).
Rounds 11 to 15 are well formed: they are legal in encoding and complete with ILLEGAL_ARG (R61, R109). -/
def Instr.wellFormed : Instr → Bool
  | .nop => true
  | .construct => true
  | .detpar => true
  | .validate => true
  | .invert => true
  | .keyexp => true
  | .encrypt => true
  | .decrypt => true
  | .subbytes => true
  | .invsubbytes => true
  | .shiftrows => true
  | .invshiftrows => true
  | .mixcolumns => true
  | .invmixcolumns => true
  | .addroundkey n => n.toNat < 16
  | .gfinv => true
  | .gfmul => true
  | .affine => true
  | .affinv => true

/-- The check as a proposition. -/
abbrev WellFormed (i : Instr) : Prop := i.wellFormed = true

end Sys2Proof
end

