-- ==== Sys2Proof/Decode.lean ====
section
/-! DEFINITION. From command words and their bytes to commands, and back (R57 to R61). -/

namespace Sys2Proof

/-- Why a command word or a byte string is no command: the three grounds of R61, and bytes too few for a word (R57). -/
inductive DecodeError where
  | truncated
  | reservedOp (op : Byte)
  | nonzeroRsv
  | nonzeroArg
  deriving DecidableEq, Repr

/-- OP, bits 7:0 (R57). -/
def opField (w : Word) : Byte := w.extractLsb' 0 8

/-- ARG, bits 11:8 (R57). -/
def argField (w : Word) : BitVec 4 := w.extractLsb' 8 4

/-- RSV, bits 31:12 (R57). -/
def rsvField (w : Word) : BitVec 20 := w.extractLsb' 12 20

/-- The opcode map of R59, the round operand given by ARG (R58); every other OP is reserved (R61). -/
def commandAt (op : Byte) (arg : BitVec 4) : Option Instr :=
  match op.toNat with
  | 0x00 => some .nop
  | 0x01 => some .construct
  | 0x02 => some .detpar
  | 0x03 => some .validate
  | 0x04 => some .invert
  | 0x10 => some .keyexp
  | 0x11 => some .encrypt
  | 0x12 => some .decrypt
  | 0x20 => some .subbytes
  | 0x21 => some .invsubbytes
  | 0x22 => some .shiftrows
  | 0x23 => some .invshiftrows
  | 0x24 => some .mixcolumns
  | 0x25 => some .invmixcolumns
  | 0x26 => some (.addroundkey (arg.setWidth 8))
  | 0x30 => some .gfinv
  | 0x31 => some .gfmul
  | 0x32 => some .affine
  | 0x33 => some .affinv
  | _ => none

/-- The command a 32-bit word is, or which ground of R61 makes it illegal. -/
def decodeWord (w : Word) : Except DecodeError Instr :=
  match commandAt (opField w) (argField w) with
  | none => .error (.reservedOp (opField w))
  | some i =>
    if rsvField w ≠ 0 then .error .nonzeroRsv
    else if argField w ≠ 0 ∧ opField w ≠ 0x26 then .error .nonzeroArg
    else .ok i

/-- Decoding from bytes: four bytes in lane order (R43) make one command word, and no command has another length (R57). -/
def decode : List Byte → Except DecodeError (Instr × List Byte)
  | b0 :: b1 :: b2 :: b3 :: rest =>
    match decodeWord (Machine.word4 b0 b1 b2 b3) with
    | .ok i => .ok (i, rest)
    | .error e => .error e
  | _ => .error .truncated

/-- The OP value of a command (R59). -/
def opcodeOf : Instr → Byte
  | .nop => 0x00
  | .construct => 0x01
  | .detpar => 0x02
  | .validate => 0x03
  | .invert => 0x04
  | .keyexp => 0x10
  | .encrypt => 0x11
  | .decrypt => 0x12
  | .subbytes => 0x20
  | .invsubbytes => 0x21
  | .shiftrows => 0x22
  | .invshiftrows => 0x23
  | .mixcolumns => 0x24
  | .invmixcolumns => 0x25
  | .addroundkey _ => 0x26
  | .gfinv => 0x30
  | .gfmul => 0x31
  | .affine => 0x32
  | .affinv => 0x33

/-- The ARG value of a command: the round of ADDROUNDKEY, else 0 (R57, R58). -/
def argOf : Instr → BitVec 4
  | .addroundkey n => n.setWidth 4
  | .nop => 0
  | .construct => 0
  | .detpar => 0
  | .validate => 0
  | .invert => 0
  | .keyexp => 0
  | .encrypt => 0
  | .decrypt => 0
  | .subbytes => 0
  | .invsubbytes => 0
  | .shiftrows => 0
  | .invshiftrows => 0
  | .mixcolumns => 0
  | .invmixcolumns => 0
  | .gfinv => 0
  | .gfmul => 0
  | .affine => 0
  | .affinv => 0

/-- The command word of a well-formed command: RSV zero, ARG, OP (R57, R59). -/
def encode (i : Instr) : Word := (opcodeOf i).setWidth 32 ||| ((argOf i).setWidth 32 <<< 8)

/-- The four bytes of a command's word in lane order (R43). -/
def encodeBytes (i : Instr) : List Byte :=
  [Machine.lane (encode i) 0, Machine.lane (encode i) 1, Machine.lane (encode i) 2, Machine.lane (encode i) 3]

/-- The word of `nbits` bits numbered as the opcode table numbers them, every bit above them 0. -/
def tableWord32 (nbits w : Nat) : Word := BitVec.ofNat 32 (w % 2 ^ nbits)

/-- The command the decoder reads from a word of the opcode table, laid out as CMD's byte lanes (R43). -/
def decodeTableWord (nbits w : Nat) : Option Instr :=
  let v := tableWord32 nbits w
  match decode [Machine.lane v 0, Machine.lane v 1, Machine.lane v 2, Machine.lane v 3] with
  | .ok (i, _) => some i
  | .error _ => none

end Sys2Proof
end

