-- ==== Sys2Proof/Config.lean ====
section
/-! DEFINITION. What an implementation or a platform fixes, and the free values the spec leaves open (R7, U1 to U4, U15 to U18). -/

namespace Sys2Proof.Config

/-- `ID_VALUE`, the identification constant (R7, R18). -/
def idValue : Word := 0x41455358

/-- `BASE`, the byte address of the window: an OPEN parameter (R7, R40, U4). -/
opaque base : Nat

/-- The bus address of an offset in the window (R17, R40). -/
def addressOf (off : Offset) : Nat := base + off.toNat

/-- The offset a bus address names, when it falls in the block's 1 KiB window; the rest of the address space is the
platform's (R40, R55). -/
def offsetAt (addr : Nat) : Option Offset :=
  if base ≤ addr ∧ addr < base + 1024 then some (BitVec.ofNat 10 (addr - base)) else none

/-- The unspecified byte `SBOX[i]` after reset number `n`: a draw fixed at reset (R39, R135, U1). Free value, log entry 1. -/
opaque resetSbox (n i : Nat) : Byte

/-- The unspecified byte `INVSBOX[i]` after reset number `n` (R39, R135, U1). Free value, log entry 1. -/
opaque resetInvsbox (n i : Nat) : Byte

/-- The unspecified word `RK[k]` after reset number `n` (R39, R135, U1). Free value, log entry 1. -/
opaque resetRk (n k : Nat) : Word

/-- What the `n`-th read made while BUSY = 1 of a register other than ID and STATUS returns: a fresh draw each time
(R50, U2). Free value, log entry 2. -/
opaque busyRead (n : Nat) : Word

/-- `LAT`: in how many further moves of the machine, beyond the least, the `n`-th accepted command, whose word is `w`, is
performed. Finite, and possibly different for every command and run (R63, R144, U3). Free value, log entry 3. -/
opaque latency (n : Nat) (w : Word) : Nat

end Sys2Proof.Config

namespace Sys2Proof

/-- The results a host driver reports beside a buffer; they never appear in STATUS.ERR (R117, R118, R121, R122, R123,
R127). `commandFailed` is a block command that completed with the given ERR code (R122); `decryptionFailed` is the one
coarse signal R123 allows. -/
inductive HostError where
  | invalidKeyLength
  | invalidSbox
  | invalidCiphertextLength
  | invalidPadding
  | textDecodeFailure
  | commandFailed (code : BitVec 4)
  | decryptionFailed
  deriving DecidableEq, Repr

/-- The OPEN host parameters of R121 and R123 (U15 to U18): `STRICT_UNPAD` (default false), `UNPAD_DEGENERATE`,
`TEXT_ENCODING` and `COARSE_DECRYPT_ERROR`. Every procedure that reads one takes it as an argument. -/
structure HostParams where
  strictUnpad        : Bool := false
  unpadDegenerate    : List Byte → Except HostError (List Byte)
  decodeText         : List Byte → Option String
  coarseDecryptError : Bool

end Sys2Proof
end

