-- ==== Sys2Proof/Machine/State.lean ====
section
/-! DEFINITION. The machine's state as plain data, the reasons a step can stop, and the state after reset. -/

namespace Sys2Proof.Machine

/-- The outcome codes a command can record in STATUS.ERR (R126). Codes 6 to 15 are never written. -/
inductive Err where
  | none
  | singularMatrix
  | invalidSbox
  | noKey
  | illegalCmd
  | illegalArg
  deriving DecidableEq, Repr

/-- The size of a host access; only 32 bits is legal (R41). -/
inductive Size where
  | byte
  | half
  | word
  deriving DecidableEq, Repr

/-- One host bus transfer: a direction, a byte offset in the window and a size; a write also has its byte strobes and its
data (R40, R41). -/
inductive Access where
  | read (off : Offset) (size : Size)
  | write (off : Offset) (size : Size) (strobes : BitVec 4) (value : Word)
  deriving DecidableEq, Repr

/-- What the world outside the block does next: the host's transfers in the order it issues them (R14, R52), its `WAIT`
polling loop (R68), a moment in which it makes no transfer, and the two edges of the reset input (R135). -/
inductive Input where
  | idle
  | access (a : Access)
  | wait
  | assertReset
  | releaseReset
  deriving DecidableEq, Repr

/-- A read the host made and the value it got (R145). -/
structure ReadRecord where
  off   : Offset
  value : Word
  deriving DecidableEq, Repr

/-- PENDING, the accepted command word (R37, R62), with the number of further moves before the sequencer performs it:
what is left of its `LAT` (R63, R144). -/
structure Pending where
  word : Word
  left : Nat
  deriving DecidableEq, Repr

/-- All the spec gives the machine, and after it the agents' side of a run.
STATUS.BUSY is stored once, as `pending`: 1 exactly while a command is pending (R21, R37). Reserved register bits have no
storage (R27): GFOP keeps 16 bits and GFRES 8. ID is a constant and has none (R18). -/
@[ext]
structure State where
  /-- CMD, the last accepted command word (R19). -/
  cmd        : Word
  /-- PENDING and with it STATUS.BUSY (R21, R37). -/
  pending    : Option Pending
  /-- STATUS.KEYV (R22). -/
  keyv       : Bool
  /-- STATUS.BIJ (R23). -/
  bij        : Bool
  /-- STATUS.MINV (R24). -/
  minv       : Bool
  /-- STATUS.OVR (R25). -/
  ovr        : Bool
  /-- STATUS.ERR (R26, R126). -/
  err        : Err
  /-- STATUS.DISTINCT, bits 24:16 (R20, R23). -/
  distinct   : BitVec 9
  /-- KEY0 to KEY3 (R28). -/
  key        : Vector Word 4
  /-- DIN0 to DIN3 (R29). -/
  din        : Vector Word 4
  /-- DOUT0 to DOUT3 (R30). -/
  dout       : Vector Word 4
  /-- MAT0, matrix rows 0 to 3 (R31). -/
  mat0       : Word
  /-- MAT1, matrix rows 4 to 7 (R31). -/
  mat1       : Word
  /-- GFOP bits 15:0: A in 7:0, B in 15:8 (R32). -/
  gfop       : BitVec 16
  /-- GFRES bits 7:0 (R33). -/
  gfres      : Byte
  /-- SBOX (R34). -/
  sbox       : Table
  /-- INVSBOX (R35). -/
  invsbox    : Table
  /-- RK (R36). -/
  rk         : Schedule
  /-- Whether the reset input is asserted (R135). -/
  inReset    : Bool
  /-- What the outside does next, oldest first (R14, R52). -/
  inputs     : List Input
  /-- The reads the host has made, newest first (R145). -/
  trace      : List ReadRecord
  /-- How many resets have been taken since power-on: indexes the table draws (R135, U1). -/
  resets     : Nat
  /-- How many reads have drawn an unspecified value: indexes those draws (R50, U2). -/
  busyReads  : Nat
  /-- How many commands have been accepted: indexes the latency draws (R144, U3). -/
  issued     : Nat
  deriving DecidableEq, Repr

/-- Why the machine stops with a fault. -/
inductive Fault where
  /-- Raised by the host's move for an access that is not an aligned 32-bit transfer with all strobes set, or is at an
  unmapped offset. The block answers with a bus error response and changes no state; the spec says a model treats the
  access as a fault of the host step (R41, R42, U5). Safe: the block itself would go on. -/
  | busError (off : Offset)
  deriving DecidableEq, Repr

/-- Why the machine gives a step no meaning. -/
inductive Refusal where
  /-- Raised by no meaning of this model: an arm of `exec` whose command has none yet. Safe. -/
  | notModelled (mnemonic : String)
  /-- Raised by the host's move for an access made while reset is asserted: the block serves none then, and the spec
  refuses it (R135, U19). Safe. -/
  | accessDuringReset
  deriving DecidableEq, Repr

/-- The state right after the `n`-th reset (R39, R135): every register and STATUS field zero, nothing pending, and each
table entry a draw (log entry 1). The agents' fields start empty. -/
def State.afterReset (n : Nat) : State where
  cmd        := 0
  pending    := none
  keyv       := false
  bij        := false
  minv       := false
  ovr        := false
  err        := .none
  distinct   := 0
  key        := tabulate fun _ => 0
  din        := tabulate fun _ => 0
  dout       := tabulate fun _ => 0
  mat0       := 0
  mat1       := 0
  gfop       := 0
  gfres      := 0
  sbox       := tabulate fun i => Config.resetSbox n i.val
  invsbox    := tabulate fun i => Config.resetInvsbox n i.val
  rk         := tabulate fun k => Config.resetRk n k.val
  inReset    := false
  inputs     := []
  trace      := []
  resets     := n
  busyReads  := 0
  issued     := 0

/-- The machine right after its first reset. -/
def State.reset : State := State.afterReset 0

/-- STATUS.BUSY (R21): a command is pending. -/
def State.busy (s : State) : Bool := s.pending.isSome

end Sys2Proof.Machine
end

