-- ==== Sys2Proof/Machine/Operands.lean ====
section
/-! DEFINITION. The implicit operands of the commands (R58, R60) as views of the registers. -/

namespace Sys2Proof.Machine

/-- Operand A, GFOP bits 7:0 (R32). -/
def gfopA (s : State) : Byte := s.gfop.extractLsb' 0 8

/-- Operand B, GFOP bits 15:8 (R32). -/
def gfopB (s : State) : Byte := s.gfop.extractLsb' 8 8

/-- The affine matrix `MAT1 ++ MAT0` (R31). -/
def matrixOf (s : State) : AffineMatrix := s.mat1 ++ s.mat0

/-- The 16-byte key `K[0..15]` (R28). -/
def keyBytes (s : State) : Block := blockOfWords s.key

/-- The 16-byte input block (R29). -/
def dinBytes (s : State) : Block := blockOfWords s.din

/-- The 16-byte output block (R30). -/
def doutBytes (s : State) : Block := blockOfWords s.dout

/-- `T[x]`, the entry of a table at a byte value (R34). -/
def lookup (t : Table) (x : Byte) : Byte := t[x.toNat]'x.isLt

end Sys2Proof.Machine
end

