-- ==== Sys2Proof/Machine/Flags.lean ====
section
/-! DEFINITION. STATUS: its word, its codes, and how its fields are computed (R20 to R27, R126). -/

namespace Sys2Proof.Machine

/-- The numeric code of an outcome (R126). -/
def Err.code : Err → BitVec 4
  | .none => 0
  | .singularMatrix => 1
  | .invalidSbox => 2
  | .noKey => 3
  | .illegalCmd => 4
  | .illegalArg => 5

/-- A one-bit field of STATUS at its place (R20). -/
def statusBit (b : Bool) (n : Nat) : Word := (BitVec.ofBool b).setWidth 32 <<< n

/-- The word a read of STATUS returns (R20); reserved bits read 0 (R27). -/
def statusWord (s : State) : Word :=
  statusBit s.busy 0 ||| statusBit s.keyv 1 ||| statusBit s.bij 2 ||| statusBit s.minv 3 ||| statusBit s.ovr 4 |||
    (s.err.code.setWidth 32 <<< 8) ||| (s.distinct.setWidth 32 <<< 16)

/-- The number of 1 bits (R9). -/
def popcount {w : Nat} (v : BitVec w) : Nat := ((List.range w).filter v.getLsbD).length

/-- The set `{ T[i] : i in 0..255 }` as its characteristic vector: bit `v` is 1 when some entry is `v`. -/
def valueSet (t : Table) : BitVec 256 :=
  t.toList.foldl (fun acc x => acc ||| (1#256 <<< x.toNat)) 0#256

/-- `|{ T[i] : i in 0..255 }|`, 0..256 (R23). -/
def distinctCount (t : Table) : Nat := popcount (valueSet t)

/-- DISTINCT as its 9-bit field (R20, R23). -/
def distinctField (t : Table) : BitVec 9 := BitVec.ofNat 9 (distinctCount t)

/-- BIJ: all 256 values occur (R23). -/
def bijective (t : Table) : Bool := distinctCount t == 256

/-- DISTINCT and BIJ, written together from a table (R23). -/
def recordBijectivity (t : Table) (s : State) : State :=
  { s with distinct := distinctField t, bij := bijective t }

/-- The outcome of a determinant-parity check (R83, R85). -/
def singularCode (minv : Bool) : Err := if minv then .none else .singularMatrix

/-- The outcome of a bijectivity check (R86). -/
def sboxCode (bij : Bool) : Err := if bij then .none else .invalidSbox

/-- A host write of `v` to STATUS while idle: bit 4 set clears OVR, every other bit is ignored (R20). -/
def writeStatus (v : Word) (s : State) : State :=
  { s with ovr := s.ovr && !v.getLsbD 4 }

end Sys2Proof.Machine
end

