-- ==== Sys2Proof/Machine/Ops.lean ====
section
/-! DEFINITION. The operations every command shares: completing, raising an outcome code, writing a result; and a command's
acceptance. -/

namespace Sys2Proof.Machine

/-- What a meaning answers. -/
abbrev Result := Host.Outcome State Fault Refusal

/-- Completion (R64): ERR takes the code, nothing is pending any more, OVR is unchanged. -/
def complete (code : Err) (s : State) : State :=
  { s with err := code, pending := none }

/-- `raise ERR(code)` (R10, R65): the command ends here with that code. This is the block's whole "exception entry": it
saves no state, changes no mode and transfers control nowhere (R130), and there is nothing to return from (R131). -/
def raiseErr (code : Err) (s : State) : State := complete code s

/-- An illegal command word completes with ILLEGAL_CMD and changes nothing else (R61). -/
def illegalCommand (s : State) : State := raiseErr .illegalCmd s

/-- Writing a 16-byte result to DOUT (R30, R96). -/
def writeDout (b : Block) (s : State) : State := { s with dout := wordsOfBlock b }

/-- Writing a result byte to GFRES; bits 31:8 read 0 (R33). -/
def writeGfres (v : Byte) (s : State) : State := { s with gfres := v }

/-- `if R[STATUS].KEYV = 0: raise ERR(NO_KEY)`, else the command goes on as `k` (R109, R112, R113). -/
def requireKey (k : State → State) (s : State) : State :=
  if s.keyv then k s else raiseErr .noKey s

/-- Acceptance of command word `v` (R62), with the draw of its latency (R63, R144; log entry 3). -/
def accept (v : Word) (s : State) : State :=
  { s with cmd := v, pending := some ⟨v, Config.latency s.issued v⟩, issued := s.issued + 1 }

end Sys2Proof.Machine
end

