-- ==== Sys2Proof/Machine/Bus.lean ====
section
/-! DEFINITION. The host side of the block: the register map, bus transfers and the reset input (R17 to R56, R135, R136). -/

namespace Sys2Proof.Machine

/-- The registers of the map, each 32 bits wide on the bus (R17). -/
inductive Reg where
  | id
  | cmd
  | status
  | key (j : Fin 4)
  | din (j : Fin 4)
  | dout (j : Fin 4)
  | mat0
  | mat1
  | gfop
  | gfres
  | sbox (k : Fin 64)
  | invsbox (k : Fin 64)
  | rk (k : Fin 44)
  deriving DecidableEq, Repr

/-- The offset of a register (R17, R67). -/
def offsetOf : Reg → Offset
  | .id => 0x000
  | .cmd => 0x004
  | .status => 0x008
  | .key j => BitVec.ofNat 10 (0x010 + 4 * j.val)
  | .din j => BitVec.ofNat 10 (0x020 + 4 * j.val)
  | .dout j => BitVec.ofNat 10 (0x030 + 4 * j.val)
  | .mat0 => 0x040
  | .mat1 => 0x044
  | .gfop => 0x048
  | .gfres => 0x04C
  | .sbox k => BitVec.ofNat 10 (0x100 + 4 * k.val)
  | .invsbox k => BitVec.ofNat 10 (0x200 + 4 * k.val)
  | .rk k => BitVec.ofNat 10 (0x300 + 4 * k.val)

/-- The register at an offset, or none where the map is unmapped or the offset is not a multiple of 4 (R17, R41, R42). -/
def regAt (off : Offset) : Option Reg :=
  let n := off.toNat
  if n % 4 ≠ 0 then none
  else if n = 0x000 then some .id
  else if n = 0x004 then some .cmd
  else if n = 0x008 then some .status
  else if h : 0x010 ≤ n ∧ n < 0x020 then some (.key ⟨(n - 0x010) / 4, by omega⟩)
  else if h : 0x020 ≤ n ∧ n < 0x030 then some (.din ⟨(n - 0x020) / 4, by omega⟩)
  else if h : 0x030 ≤ n ∧ n < 0x040 then some (.dout ⟨(n - 0x030) / 4, by omega⟩)
  else if n = 0x040 then some .mat0
  else if n = 0x044 then some .mat1
  else if n = 0x048 then some .gfop
  else if n = 0x04C then some .gfres
  else if h : 0x100 ≤ n ∧ n < 0x200 then some (.sbox ⟨(n - 0x100) / 4, by omega⟩)
  else if h : 0x200 ≤ n ∧ n < 0x300 then some (.invsbox ⟨(n - 0x200) / 4, by omega⟩)
  else if h : 0x300 ≤ n ∧ n < 0x3B0 then some (.rk ⟨(n - 0x300) / 4, by omega⟩)
  else none

/-- The value a register holds, as a read returns it while idle (R17 to R36); reserved bits read 0 (R27). -/
def readReg (r : Reg) (s : State) : Word :=
  match r with
  | .id => Config.idValue
  | .cmd => s.cmd
  | .status => statusWord s
  | .key j => s.key[j]
  | .din j => s.din[j]
  | .dout j => s.dout[j]
  | .mat0 => s.mat0
  | .mat1 => s.mat1
  | .gfop => s.gfop.setWidth 32
  | .gfres => s.gfres.setWidth 32
  | .sbox k => tableWord s.sbox k
  | .invsbox k => tableWord s.invsbox k
  | .rk k => s.rk[k]

/-- The effect of a legal host write while BUSY = 0 (R47, R48). -/
def writeReg (r : Reg) (v : Word) (s : State) : State :=
  match r with
  | .id => s
  | .cmd => accept v s
  | .status => writeStatus v s
  | .key j => { s with key := s.key.set j.val v, keyv := false }
  | .din j => { s with din := s.din.set j.val v }
  | .dout _ => s
  | .mat0 => { s with mat0 := v }
  | .mat1 => { s with mat1 := v }
  | .gfop => { s with gfop := v.setWidth 16 }
  | .gfres => s
  | .sbox k => { s with sbox := setTableWord s.sbox k v, keyv := false }
  | .invsbox k => { s with invsbox := setTableWord s.invsbox k v }
  | .rk _ => s

/-- A read of a mapped register: its value and the state after. While BUSY = 1 only ID and STATUS return theirs; another
read returns a fresh draw and changes nothing but the count of draws (R46, R50; log entry 2). -/
def busRead (r : Reg) (s : State) : Word × State :=
  if s.busy ∧ r ≠ .id ∧ r ≠ .status then
    (Config.busyRead s.busyReads, { s with busyReads := s.busyReads + 1 })
  else (readReg r s, s)

/-- A write of a mapped register: while BUSY = 1 it is dropped and sets OVR (R47, R49). -/
def busWrite (r : Reg) (v : Word) (s : State) : State :=
  if s.busy then { s with ovr := true } else writeReg r v s

/-- The block's answer to a transfer (R40, R41, R42). -/
inductive Response where
  | busError
  | readData (v : Word)
  | written
  deriving DecidableEq, Repr

/-- The data lines of an answer: a read that gets a bus error returns 0 (R41). -/
def Response.data : Response → Word
  | .busError => 0
  | .readData v => v
  | .written => 0

/-- The offset an access names (R40). -/
def Access.off : Access → Offset
  | .read off _ => off
  | .write off _ _ _ => off

/-- Legal: a 32-bit transfer, every byte strobe of a write set, at a multiple of 4 (R41). -/
def Access.legal : Access → Bool
  | .read off size => size = .word ∧ off.toNat % 4 = 0
  | .write off size strobes _ => size = .word ∧ strobes = 0xF ∧ off.toNat % 4 = 0

/-- The block serves one transfer: its answer and the state after. An illegal or unmapped access gets a bus error and
changes no state, busy or not (R41, R42, R128, R129). -/
def serve (a : Access) (s : State) : Response × State :=
  if a.legal then
    match regAt a.off, a with
    | none, _ => (.busError, s)
    | some r, .read _ _ => (.readData (busRead r s).1, (busRead r s).2)
    | some r, .write _ _ _ v => (.written, busWrite r v s)
  else (.busError, s)

/-- The host notes a value it read (R145). -/
def logRead (off : Offset) (v : Word) (s : State) : State :=
  { s with trace := ⟨off, v⟩ :: s.trace }

/-- The host's move for one transfer. The spec has a model treat a bus error as a fault of the host step (R41, U5). -/
def hostAccess (a : Access) (s : State) : Result :=
  match serve a s with
  | (.busError, _) => .fault (.busError a.off)
  | (.readData v, t) => .next (logRead a.off v t)
  | (.written, t) => .next t

/-- One round of the `WAIT` loop: a read of STATUS, and the loop goes on while its bit 0 is 1 (R68). `rest` is what the
host does after the loop. -/
def pollStatus (rest : List Input) (s : State) : State :=
  let t := logRead (offsetOf .status) (statusWord s) s
  if s.busy then t else { t with inputs := rest }

/-- Reset is asserted: a pending command is abandoned with none of its effects (R136). -/
def assertReset (s : State) : State := { s with inReset := true, pending := none }

/-- Reset is released: every register holds its reset value and the tables hold new draws (R135). The outside's inputs, what
the host has read and the counts of draws are not the block's and stay. -/
def releaseReset (s : State) : State :=
  { State.afterReset (s.resets + 1) with
    inputs := s.inputs, trace := s.trace, busyReads := s.busyReads, issued := s.issued }

/-- The outside's next move while reset is not asserted. With no input left the block waits (R137). -/
def hostMove (s : State) : Result :=
  match s.inputs with
  | [] => .next s
  | .idle :: rest => .next { s with inputs := rest }
  | .access a :: rest => hostAccess a { s with inputs := rest }
  | .wait :: rest => .next (pollStatus rest s)
  | .assertReset :: rest => .next (assertReset { s with inputs := rest })
  | .releaseReset :: rest => .next { s with inputs := rest }

/-- The outside's next move while reset is asserted: no access is served and no command performed (R135, U19). -/
def resetMove (s : State) : Result :=
  match s.inputs with
  | [] => .next s
  | .idle :: rest => .next { s with inputs := rest }
  | .access _ :: _ => .refused .accessDuringReset
  | .wait :: _ => .refused .accessDuringReset
  | .assertReset :: rest => .next { s with inputs := rest }
  | .releaseReset :: rest => .next (releaseReset { s with inputs := rest })

end Sys2Proof.Machine
end

