-- ==== Sys2Proof/Machine/RoundTransforms.lean ====
section
/-! DEFINITION. Loading and storing the cipher state, the round transforms, and one command for each (R95 to R109). -/

namespace Sys2Proof.Machine

/-- The grid whose cell `[r][c]` is `f r c`. -/
def gridOf (f : Fin 4 → Fin 4 → Byte) : Grid := tabulate fun r => tabulate fun c => f r c

/-- `Load(in)[r][c] = in[r + 4c]` (R95). -/
def load (b : Block) : Grid := gridOf fun r c => b[r.val + 4 * c.val]

/-- `Store(s)`: byte `r + 4c` is `s[r][c]` (R96). -/
def store (g : Grid) : Block :=
  tabulate fun k => (g[k.val % 4]'(by omega))[k.val / 4]'(by omega)

/-- `SubBytes(s, T)`, and with the inverse table `InvSubBytes(s, T)` (R97). -/
def subBytes (g : Grid) (t : Table) : Grid := gridOf fun r c => lookup t g[r][c]

/-- Row `r` rotated left by `r`; column indices are mod 4 (R98). -/
def shiftRows (g : Grid) : Grid := gridOf fun r c => g[r][c + r]

/-- Row `r` rotated right by `r` (R98). -/
def invShiftRows (g : Grid) : Grid := gridOf fun r c => g[r][c - r]

/-- Each column multiplied by the circulant matrix with first row `q`: entry `[r][k]` is `q[(k − r) mod 4]` (R99). -/
def mulColumns (q : Vector Byte 4) (g : Grid) : Grid :=
  gridOf fun r c =>
    gmul q[0 - r] g[(0 : Fin 4)][c] ^^^ gmul q[1 - r] g[(1 : Fin 4)][c] ^^^ gmul q[2 - r] g[(2 : Fin 4)][c] ^^^
      gmul q[3 - r] g[(3 : Fin 4)][c]

/-- The forward coefficients (R99, R100). -/
def mixRow : Vector Byte 4 := #v[0x02, 0x03, 0x01, 0x01]

/-- The inverse coefficients (R99, R101). -/
def invMixRow : Vector Byte 4 := #v[0x0E, 0x0B, 0x0D, 0x09]

/-- MixColumns (R100). -/
def mixColumns (g : Grid) : Grid := mulColumns mixRow g

/-- InvMixColumns (R101). -/
def invMixColumns (g : Grid) : Grid := mulColumns invMixRow g

/-- `AddRoundKey(s, RK, n)[r][c] = s[r][c] ^ RK[4n + c].r`, `n` in 0..10 (R102). -/
def addRoundKey (g : Grid) (rk : Schedule) (n : Fin 11) : Grid :=
  gridOf fun r c => g[r][c] ^^^ lane rk[4 * n.val + c.val] r

/-- A single transform of DIN into DOUT, with outcome NONE (R103 to R109). -/
def transformDin (f : Grid → Grid) (s : State) : State :=
  complete .none (writeDout (store (f (load (dinBytes s)))) s)

/-- SUBBYTES, through SBOX as it is (R103). -/
def execSubbytes (s : State) : Result := .next (transformDin (fun g => subBytes g s.sbox) s)

/-- INVSUBBYTES, through INVSBOX as it is (R104). -/
def execInvsubbytes (s : State) : Result := .next (transformDin (fun g => subBytes g s.invsbox) s)

/-- SHIFTROWS (R105). -/
def execShiftrows (s : State) : Result := .next (transformDin shiftRows s)

/-- INVSHIFTROWS (R106). -/
def execInvshiftrows (s : State) : Result := .next (transformDin invShiftRows s)

/-- MIXCOLUMNS (R107). -/
def execMixcolumns (s : State) : Result := .next (transformDin mixColumns s)

/-- INVMIXCOLUMNS (R108). -/
def execInvmixcolumns (s : State) : Result := .next (transformDin invMixColumns s)

/-- ADDROUNDKEY n: ILLEGAL_ARG for `n > 10` first, then NO_KEY, else the transform (R109, R129). -/
def execAddroundkey (n : BitVec 8) (s : State) : Result :=
  .next (if h : n.toNat < 11 then requireKey (transformDin fun g => addRoundKey g s.rk ⟨n.toNat, h⟩) s
    else raiseErr .illegalArg s)

end Sys2Proof.Machine
end

