-- ==== Sys2Proof/Machine/Cipher.lean ====
section
/-! DEFINITION. Block encryption and decryption (R110 to R113). -/

namespace Sys2Proof.Machine

/-- One of the rounds 1..9 of Cipher (R110). -/
def cipherRound (rk : Schedule) (t : Table) (g : Grid) (n : Fin 11) : Grid :=
  addRoundKey (mixColumns (shiftRows (subBytes g t))) rk n

/-- `Cipher(in, RK, S)` (R110). -/
def cipher (b : Block) (rk : Schedule) (t : Table) : Block :=
  let g := [1, 2, 3, 4, 5, 6, 7, 8, 9].foldl (cipherRound rk t) (addRoundKey (load b) rk 0)
  store (addRoundKey (shiftRows (subBytes g t)) rk 10)

/-- One of the rounds 9 down to 1 of InvCipher (R111). -/
def invCipherRound (rk : Schedule) (t : Table) (g : Grid) (n : Fin 11) : Grid :=
  invMixColumns (addRoundKey (subBytes (invShiftRows g) t) rk n)

/-- `InvCipher(in, RK, T)` (R111). -/
def invCipher (b : Block) (rk : Schedule) (t : Table) : Block :=
  let g := [9, 8, 7, 6, 5, 4, 3, 2, 1].foldl (invCipherRound rk t) (addRoundKey (load b) rk 10)
  store (addRoundKey (subBytes (invShiftRows g) t) rk 0)

/-- ENCRYPT: NO_KEY when KEYV = 0, else one block through Cipher (R112). -/
def execEncrypt (s : State) : Result :=
  .next (requireKey (fun s => complete .none (writeDout (cipher (dinBytes s) s.rk s.sbox) s)) s)

/-- DECRYPT: NO_KEY when KEYV = 0, else one block through InvCipher with INVSBOX as it is (R113). -/
def execDecrypt (s : State) : Result :=
  .next (requireKey (fun s => complete .none (writeDout (invCipher (dinBytes s) s.rk s.invsbox) s)) s)

end Sys2Proof.Machine
end

