-- ==== Sys2Proof/Machine/GfUnit.lean ====
section
/-! DEFINITION. The commands of the GF(2^8) datapath (R79 to R82). -/

namespace Sys2Proof.Machine

/-- GFINV: `GFRES <- ginv(A)` (R79). -/
def execGfinv (s : State) : Result := .next (complete .none (writeGfres (ginv (gfopA s)) s))

/-- GFMUL: `GFRES <- A • B` (R80). -/
def execGfmul (s : State) : Result := .next (complete .none (writeGfres (gmul (gfopA s) (gfopB s)) s))

/-- AFFINE: `GFRES <- affine(M, A)`; MINV is not written (R81). -/
def execAffine (s : State) : Result := .next (complete .none (writeGfres (affine (matrixOf s) (gfopA s)) s))

/-- AFFINV: `GFRES <- affine(M, ginv(A))` (R82). -/
def execAffinv (s : State) : Result := .next (complete .none (writeGfres (affine (matrixOf s) (ginv (gfopA s))) s))

end Sys2Proof.Machine
end

