-- ==== Sys2Proof/Machine/KeySchedule.lean ====
section
/-! DEFINITION. The key schedule and KEYEXP (R89 to R93). -/

namespace Sys2Proof.Machine

/-- `RCON[j]`: 0x01, then doubled (R89). -/
def rcon : Nat → Byte
  | 0 => 0x01
  | j + 1 => xtime (rcon j)

/-- `(a0, a1, a2, a3)` to `(a1, a2, a3, a0)` (R90). -/
def rotWord (w : Word) : Word := word4 (lane w 1) (lane w 2) (lane w 3) (lane w 0)

/-- Each byte through the table (R91). -/
def subWord (t : Table) (w : Word) : Word := packLanes fun j => lookup t (lane w j)

/-- `temp` for word `i` of the schedule, from word `i-1` (R92). -/
def scheduleTemp (t : Table) (i : Nat) (prev : Word) : Word :=
  if i % 4 = 0 then
    let temp := subWord t (rotWord prev)
    word4 (lane temp 0 ^^^ rcon (i / 4 - 1)) (lane temp 1) (lane temp 2) (lane temp 3)
  else prev

/-- The first `n + 4` schedule words, newest first: word `i` is `w[i-4] ^ temp` (R92). -/
def scheduleWords (t : Table) (key : Vector Word 4) : Nat → List Word
  | 0 => [key[3], key[2], key[1], key[0]]
  | n + 1 =>
    let ws := scheduleWords t key n
    (ws.getD 3 0 ^^^ scheduleTemp t (n + 4) (ws.getD 0 0)) :: ws

/-- The loop makes `n + 4` words, so its accesses to words `i-1` and `i-4` are never out of range. -/
theorem scheduleWords_length (t : Table) (key : Vector Word 4) (n : Nat) :
    (scheduleWords t key n).length = n + 4 := by
  induction n with
  | zero => rfl
  | succ n ih => simp [scheduleWords, ih]

/-- `KeyExpansion(K, S)`: the 44 words `w[0..43]`, the key in its registers' byte order filling the first four (R92, R28). -/
def keyExpansion (key : Vector Word 4) (t : Table) : Schedule :=
  ⟨⟨(scheduleWords t key 40).reverse⟩, by simp [scheduleWords_length]⟩

/-- KEYEXP: BIJ and DISTINCT are recorded; a table that is not a permutation clears KEYV, leaves RK and reports
INVALID_SBOX; else RK is written and KEYV set (R93). -/
def execKeyexp (s : State) : Result :=
  let s1 := recordBijectivity s.sbox s
  .next (if s1.bij then complete .none { s1 with rk := keyExpansion s.key s.sbox, keyv := true }
    else raiseErr .invalidSbox { s1 with keyv := false })

end Sys2Proof.Machine
end

