-- ==== Sys2Proof/Machine/SboxUnit.lean ====
section
/-! DEFINITION. Building, checking and inverting the S-box table (R83 to R87). -/

namespace Sys2Proof.Machine

/-- The table CONSTRUCT builds: entry `x` is `affine(M, ginv(x))` (R83). -/
def constructTable (m : AffineMatrix) : Table := tabulate fun x => affine m (ginv (BitVec.ofFin x))

/-- One pass of INVERT's loop: `T[SBOX[i]] <- i` (R87). -/
def invertStep (t : Table) (acc : Table) (i : Fin 256) : Table :=
  acc.set t[i].toNat (BitVec.ofFin i) t[i].isLt

/-- The table INVERT builds: all zero, then `T[SBOX[i]] <- i` for `i` in increasing order (R87). -/
def invertTable (t : Table) : Table :=
  (List.finRange 256).foldl (invertStep t) (tabulate fun _ => 0)

/-- CONSTRUCT: the whole table is written even when the matrix is singular, which is then reported (R83). -/
def execConstruct (s : State) : Result :=
  let t := constructTable (matrixOf s)
  let minv := detParity (matrixOf s)
  .next (complete (singularCode minv) (recordBijectivity t { s with sbox := t, minv := minv, keyv := false }))

/-- DETPAR: MINV alone, and its report (R85). -/
def execDetpar (s : State) : Result :=
  let minv := detParity (matrixOf s)
  .next (complete (singularCode minv) { s with minv := minv })

/-- VALIDATE: BIJ and DISTINCT of SBOX, and their report (R86). -/
def execValidate (s : State) : Result :=
  .next (complete (sboxCode (bijective s.sbox)) (recordBijectivity s.sbox s))

/-- INVERT: INVSBOX from SBOX; no error for a table that is not bijective (R87). -/
def execInvert (s : State) : Result :=
  .next (complete .none { s with invsbox := invertTable s.sbox })

end Sys2Proof.Machine
end

