-- ==== Sys2Proof/Machine/System.lean ====
section
/-! DEFINITION. The system command (R115). -/

namespace Sys2Proof.Machine

/-- NOP: ERR becomes NONE and nothing else changes (R115). -/
def execNop (s : State) : Result := .next (complete .none s)

end Sys2Proof.Machine
end

