-- ==== Sys2Proof/Machine/Dispatch.lean ====
section
/-! DEFINITION. `Exec(cmd, state)` of R66: the state after a command is performed and completes, one arm per command. -/

namespace Sys2Proof.Machine

def exec (i : Instr) (s : State) : Host.Outcome State Fault Refusal :=
  match i with
  | .nop => Sys2Proof.Machine.execNop s
  | .construct => Sys2Proof.Machine.execConstruct s
  | .detpar => Sys2Proof.Machine.execDetpar s
  | .validate => Sys2Proof.Machine.execValidate s
  | .invert => Sys2Proof.Machine.execInvert s
  | .keyexp => Sys2Proof.Machine.execKeyexp s
  | .encrypt => Sys2Proof.Machine.execEncrypt s
  | .decrypt => Sys2Proof.Machine.execDecrypt s
  | .subbytes => Sys2Proof.Machine.execSubbytes s
  | .invsubbytes => Sys2Proof.Machine.execInvsubbytes s
  | .shiftrows => Sys2Proof.Machine.execShiftrows s
  | .invshiftrows => Sys2Proof.Machine.execInvshiftrows s
  | .mixcolumns => Sys2Proof.Machine.execMixcolumns s
  | .invmixcolumns => Sys2Proof.Machine.execInvmixcolumns s
  | .addroundkey n => Sys2Proof.Machine.execAddroundkey n s
  | .gfinv => Sys2Proof.Machine.execGfinv s
  | .gfmul => Sys2Proof.Machine.execGfmul s
  | .affine => Sys2Proof.Machine.execAffine s
  | .affinv => Sys2Proof.Machine.execAffinv s

end Sys2Proof.Machine
end

