-- ==== Sys2Proof/Machine/Sequencer.lean ====
section
/-! DEFINITION. The sequencer: performing the pending command (R61, R63), and which agent moves next (R14, R52, R129). -/

namespace Sys2Proof.Machine

/-- Performance and completion of command word `w` in one atomic step: the legality check of R61 comes first (R129), then
the command itself (R63, R64, R66). -/
def perform (w : Word) (s : State) : Result :=
  match decodeWord w with
  | .ok i => exec i s
  | .error _ => .next (illegalCommand s)

/-- Whether the next thing the outside does is to assert reset, which overrides everything (R129, R135). -/
def resetNext (s : State) : Bool :=
  match s.inputs with
  | .assertReset :: _ => true
  | _ => false

/-- One move of the machine. Reset comes first. Otherwise a pending command whose latency is over is performed; while it is
not over, and while nothing is pending, the host moves, so that a completion is a single event between two host accesses
(R52, R63). -/
def machineMove (s : State) : Result :=
  if resetNext s then hostMove s
  else if s.inReset then resetMove s
  else match s.pending with
    | some ⟨w, 0⟩ => perform w s
    | some ⟨w, k + 1⟩ => hostMove { s with pending := some ⟨w, k⟩ }
    | none => hostMove s

/-- The inputs after any assertions of reset at their front. -/
def dropResets : List Input → List Input
  | .assertReset :: rest => dropResets rest
  | rest => rest

/-- Command word `w` accepted and its latency over, so that the next move performs it: CMD and PENDING hold it, reset is not
asserted and does not come first. It stands for a host write of `w` to CMD and the time until the sequencer takes it
(R62, R63; log entry 4). -/
def stageCommand (w : Word) (s : State) : State :=
  { s with cmd := w, pending := some ⟨w, 0⟩, inReset := false, inputs := dropResets s.inputs }

end Sys2Proof.Machine
end

