-- ==== Sys2Proof/Machine/Step.lean ====
section
/-! DEFINITION. One step of the machine, and the state in which the next step runs a given command word. -/

namespace Sys2Proof.Machine

/-- One step: a move of the sequencer or of the outside (R14, R66). -/
def step (s : State) : Host.Outcome State Fault Refusal := machineMove s

/-- `s` with the opcode table's word `w` of `nbits` bits as the command the next step performs (log entry 4). -/
def State.withFetchWord (s : State) (nbits w : Nat) : State := stageCommand (tableWord32 nbits w) s

end Sys2Proof.Machine
end

