-- ==== Sys2Proof/Machine/Script.lean ====
section
/-! DEFINITION. Host scripts: the spec's host program forms and pseudo-instructions as the transfers they stand for (R67, R68). -/

namespace Sys2Proof.Machine

/-- `HostWrite(off, v)` as a transfer: 32 bits, all strobes set (R10, R41). -/
def write32 (off : Offset) (v : Word) : Access := .write off .word 0xF v

/-- `HostRead(off)` as a transfer (R10, R41). -/
def read32 (off : Offset) : Access := .read off .word

/-- `WR <reg>, <value>` (R67). -/
def wr (r : Reg) (v : Word) : Input := .access (write32 (offsetOf r) v)

/-- `RD <reg>` (R67). -/
def rd (r : Reg) : Input := .access (read32 (offsetOf r))

/-- `CMD <mnemonic>`: a write of the command's word to CMD (R67). -/
def cmd (i : Instr) : Input := wr .cmd (encode i)

/-- `WAIT` (R68). -/
def waitIdle : List Input := [.wait]

/-- `EXEC <mnemonic> [n]` (R68). -/
def execScript (i : Instr) : List Input := cmd i :: waitIdle

/-- `LDKEY k0 … k15` (R68). -/
def ldkey (k : Block) : List Input := (List.finRange 4).map fun j => wr (.key j) (wordsOfBlock k)[j]

/-- `LDBLK b0 … b15` (R68). -/
def ldblk (b : Block) : List Input := (List.finRange 4).map fun j => wr (.din j) (wordsOfBlock b)[j]

/-- `RDBLK` (R68). -/
def rdblk : List Input := (List.finRange 4).map fun j => rd (.dout j)

/-- `LDMAT r0 … r7`, the row bytes (R68). -/
def ldmat (rows : Vector Byte 8) : List Input :=
  [wr .mat0 (word4 rows[0] rows[1] rows[2] rows[3]), wr .mat1 (word4 rows[4] rows[5] rows[6] rows[7])]

/-- `LDSBOX t0 … t255` (R68). -/
def ldsbox (t : Table) : List Input := (List.finRange 64).map fun k => wr (.sbox k) (tableWord t k)

/-- `LDINV t0 … t255` (R68). -/
def ldinv (t : Table) : List Input := (List.finRange 64).map fun k => wr (.invsbox k) (tableWord t k)

/-- `CLROVR` (R68). -/
def clrovr : List Input := [wr .status 0x00000010]

/-- How the host puts the inverse in INVSBOX: derived by the block, or loaded as the second half of an external pair (R118,
R138). -/
def inverseScript : Option Table → List Input
  | none => execScript .invert
  | some inv => ldinv inv

/-- The boot order of R138 with a matrix: steps 1 to 3, the errors left to the host to read. -/
def bootScript (rows : Vector Byte 8) (k : Block) : List Input :=
  ldmat rows ++ execScript .construct ++ inverseScript none ++ ldkey k ++ execScript .keyexp

/-- The boot order of R138 with a table and its inverse loaded by the host. -/
def bootTablesScript (t inv : Table) (k : Block) : List Input :=
  ldsbox t ++ execScript .validate ++ inverseScript (some inv) ++ ldkey k ++ execScript .keyexp

/-- What the host does with a key handed to it: `InvalidKeyLength` unless it is 16 bytes, else load and expand it (R117). -/
def loadKeyScript (k : List Byte) : Except HostError (List Input) :=
  if h : k.length = 16 then .ok (ldkey ⟨⟨k⟩, h⟩ ++ execScript .keyexp) else .error .invalidKeyLength

/-- An element of an S-box handed to the host: an integer, or something that is none, of which the host checks no more
(R118). -/
inductive SboxElement where
  | integer (n : Int)
  | notInteger
  deriving DecidableEq, Repr

/-- The table entry an element stands for: none unless it is an integer in 0..255 (R118). -/
def entryOf : SboxElement → Option Byte
  | .integer n => if 0 ≤ n ∧ n ≤ 255 then some (BitVec.ofInt 8 n) else none
  | .notInteger => none

/-- What the host does with a supplied S-box: `InvalidSbox` for another length than 256 or an element that is not an integer
in 0..255, else load it and validate it (R118). -/
def loadSboxScript (xs : List SboxElement) : Except HostError (List Input) :=
  if h : xs.length = 256 ∧ xs.all (fun x => (entryOf x).isSome) = true then
    .ok (ldsbox (tabulate fun i => (entryOf (xs[i.val]'(by omega))).getD 0) ++ execScript .validate)
  else .error .invalidSbox

/-- How the host loads a matrix and learns its determinant parity; a singular one is not refused (R119). -/
def loadMatrixScript (rows : Vector Byte 8) : List Input := ldmat rows ++ execScript .detpar ++ [rd .status]

end Sys2Proof.Machine
end

