-- ==== Sys2Proof/Machine/HostProtocol.lean ====
section
/-! DEFINITION. The host's buffer procedures: padding and independent blocks, driving the block (R120 to R123). -/

namespace Sys2Proof.Machine

/-- `Pad(P)`: `n = 16 − (L mod 16)` bytes of value `n` after the buffer (R120). -/
def pad (p : List Byte) : List Byte :=
  let n := 16 - p.length % 16
  p ++ List.replicate n (BitVec.ofNat 8 n)

/-- `Unpad(Q)` of a decrypted buffer, strict or not; a degenerate pad byte gives the OPEN `UNPAD_DEGENERATE` (R121). -/
def unpad (h : HostParams) (q : List Byte) : Except HostError (List Byte) :=
  let n := (q.getLastD 0).toNat
  if h.strictUnpad ∧ ¬(1 ≤ n ∧ n ≤ 16) then .error .invalidPadding
  else if 1 ≤ n ∧ n ≤ q.length then .ok (q.take (q.length - n))
  else h.unpadDegenerate q

/-- The whole 16-byte blocks of a buffer, in order; bytes after the last whole block are left out. -/
def blocksOf : List Byte → List Block
  | b0 :: b1 :: b2 :: b3 :: b4 :: b5 :: b6 :: b7 :: b8 :: b9 :: b10 :: b11 :: b12 :: b13 :: b14 :: b15 :: rest =>
    #v[b0, b1, b2, b3, b4, b5, b6, b7, b8, b9, b10, b11, b12, b13, b14, b15] :: blocksOf rest
  | _ => []

/-- A legal host write as the driver makes it (R10, R47, R49). -/
def driverWrite (r : Reg) (v : Word) (s : State) : State := (serve (write32 (offsetOf r) v) s).2

/-- A legal host read as the driver makes it (R10). -/
def driverRead (r : Reg) (s : State) : Word := (serve (read32 (offsetOf r)) s).1.data

/-- `WAIT` as the driver sees it: its reads change nothing (R46), and when it ends the pending command has been performed
(R52, R63). -/
def awaitIdle (s : State) : State :=
  match s.pending with
  | none => s
  | some p =>
    match perform p.word s with
    | .next t => t
    | .fault _ => s
    | .refused _ => s

/-- `EXEC <mnemonic>` (R68). -/
def driverExec (i : Instr) (s : State) : State := awaitIdle (driverWrite .cmd (encode i) s)

/-- `LDBLK` (R68). -/
def driverLoad (b : Block) (s : State) : State :=
  (List.finRange 4).foldl (fun t j => driverWrite (.din j) (wordsOfBlock b)[j] t) s

/-- `RDBLK` (R68). -/
def driverReadBlock (s : State) : Block := blockOfWords (tabulate fun j => driverRead (.dout j) s)

/-- The ERR field the host reads from STATUS (R20). -/
def driverErr (s : State) : BitVec 4 := (driverRead .status s).extractLsb' 8 4

/-- One block through ENCRYPT or DECRYPT: load it, run the command, read ERR, read the result (R122, R123). -/
def driverBlock (i : Instr) (b : Block) (s : State) : Except HostError Block × State :=
  let t := driverExec i (driverLoad b s)
  if driverErr t = 0 then (.ok (driverReadBlock t), t) else (.error (.commandFailed (driverErr t)), t)

/-- Blocks in order, each independent; a failed block fails the whole, with no partial result (R122, R123). DESIGN CHOICE,
log entry 18: the driver stops at the first block whose ERR is not NONE and reports that code; the spec does not say whether
the blocks after it are still issued. -/
def driverBlocks (i : Instr) : List Block → State → Except HostError (List Byte) × State
  | [], s => (.ok [], s)
  | b :: rest, s =>
    match driverBlock i b s with
    | (.error e, t) => (.error e, t)
    | (.ok out, t) =>
      match driverBlocks i rest t with
      | (.error e, u) => (.error e, u)
      | (.ok outs, u) => (.ok (out.toList ++ outs), u)

/-- `EncryptBuffer(P)` (R122). -/
def encryptBuffer (p : List Byte) (s : State) : Except HostError (List Byte) × State :=
  driverBlocks .encrypt (blocksOf (pad p)) s

/-- Whether a failed decryption is reported precisely or as one coarse signal is OPEN (R123, U18). -/
def reportDecrypt {α : Type} (h : HostParams) : Except HostError α → Except HostError α
  | .ok x => .ok x
  | .error e => .error (if h.coarseDecryptError then .decryptionFailed else e)

/-- `DecryptBuffer(C)` before the choice of report (R123). -/
def decryptBufferPrecise (h : HostParams) (c : List Byte) (s : State) : Except HostError (List Byte) × State :=
  if c.length = 0 ∨ c.length % 16 ≠ 0 then (.error .invalidCiphertextLength, s)
  else
    match driverBlocks .decrypt (blocksOf c) s with
    | (.error e, t) => (.error e, t)
    | (.ok q, t) => (unpad h q, t)

/-- `DecryptBuffer(C)` (R123). -/
def decryptBuffer (h : HostParams) (c : List Byte) (s : State) : Except HostError (List Byte) × State :=
  let r := decryptBufferPrecise h c s
  (reportDecrypt h r.1, r.2)

/-- `DecryptBuffer(C)` when a text result is requested, in the OPEN `TEXT_ENCODING` (R123). -/
def decryptText (h : HostParams) (c : List Byte) (s : State) : Except HostError String × State :=
  let r := decryptBufferPrecise h c s
  let text : Except HostError String :=
    match r.1 with
    | .error e => .error e
    | .ok bytes =>
      match h.decodeText bytes with
      | some t => .ok t
      | none => .error .textDecodeFailure
  (reportDecrypt h text, r.2)

end Sys2Proof.Machine
end

