-- ==== Sys2Proof/Safety.lean ====
section
/-! DEFINITION. What claims are stated in: the machine's invariants, the end of a run, and what the host can read of a state. -/

namespace Sys2Proof.Machine

/-- A table is a permutation of the 256 bytes (R13). -/
def Permutation (t : Table) : Prop := ∀ x y : Byte, lookup t x = lookup t y → x = y

/-- `u` undoes `t`, and `t` undoes `u` (R13, R88). -/
def InverseTables (t u : Table) : Prop :=
  (∀ x : Byte, lookup u (lookup t x) = x) ∧ (∀ y : Byte, lookup t (lookup u y) = y)

/-- Whenever KEYV = 1, RK is the expansion of the current KEY through the current SBOX, and SBOX is a permutation (R22). -/
def ScheduleCurrent (s : State) : Prop :=
  s.keyv = true → s.rk = keyExpansion s.key s.sbox ∧ Permutation s.sbox

/-- While a command is pending, CMD holds its word (R37, R62). -/
def PendingIsCmd (s : State) : Prop := ∀ p : Pending, s.pending = some p → p.word = s.cmd

/-- BIJ and DISTINCT are one record: BIJ = 1 exactly when DISTINCT = 256, and DISTINCT is 0..256 (R20, R23). -/
def BijectivityRecord (s : State) : Prop :=
  s.bij = decide (s.distinct.toNat = 256) ∧ s.distinct.toNat ≤ 256

/-- The invariant of the machine. -/
def Inv (s : State) : Prop := ScheduleCurrent s ∧ PendingIsCmd s ∧ BijectivityRecord s

/-- The end of a run: the host has made its last transfer and BUSY = 0 (R145). DESIGN CHOICE, log entry 19: idle moments and
reset edges after the last transfer belong to the run, so no input is left, and a state with reset still asserted can be
final. -/
def RunEnded (s : State) : Prop := s.inputs = [] ∧ s.busy = false

/-- An access the block serves without a bus error (R41, R42). -/
def Access.served (a : Access) : Bool := a.legal && (regAt a.off).isSome

/-- Inputs with which the machine neither resets nor meets a bus error: transfers it serves, waits and idle moments. -/
def quietInput : Input → Bool
  | .idle => true
  | .access a => a.served
  | .wait => true
  | .assertReset => false
  | .releaseReset => false

/-- Two states hold the same registers, tables and STATUS but for OVR, BUSY and CMD's pending word: what a command reads and
writes (R51, R60). -/
def SameBlock (s t : State) : Prop :=
  t.cmd = s.cmd ∧ t.keyv = s.keyv ∧ t.bij = s.bij ∧ t.minv = s.minv ∧ t.err = s.err ∧ t.distinct = s.distinct ∧
  t.key = s.key ∧ t.din = s.din ∧ t.dout = s.dout ∧ t.mat0 = s.mat0 ∧ t.mat1 = s.mat1 ∧ t.gfop = s.gfop ∧
  t.gfres = s.gfres ∧ t.sbox = s.sbox ∧ t.invsbox = s.invsbox ∧ t.rk = s.rk

/-- Word `w` is command `i`, and every other word with its OP is illegal: how each command rule states its encoding and its
ILLEGAL_CMD errors (R57, R61). -/
def OnlyWordOf (w : Word) (i : Instr) : Prop :=
  decodeWord w = .ok i ∧ ∀ v : Word, opField v = opField w → v ≠ w → ∃ e, decodeWord v = .error e

/-- `|{ T[i] : i in 0..255 }|` (R23), as the size of a finite set. -/
def valueCount (t : Table) : Nat := (Finset.univ.image fun i : Fin 256 => t[i]).card

/-- The offsets the register map marks unmapped (R17, R42). -/
def Unmapped (off : Offset) : Prop :=
  off.toNat = 0x00C ∨ (0x050 ≤ off.toNat ∧ off.toNat ≤ 0x0FC) ∨ 0x3B0 ≤ off.toNat

/-- A state in which a transfer at the front of the inputs is the next move: reset is not asserted, and no pending command
has its latency over. -/
def HostTurn (s : State) : Prop := s.inReset = false ∧ ∀ p : Pending, s.pending = some p → p.left ≠ 0

/-- Ready for the driver: idle, reset not asserted. -/
def Idle (s : State) : Prop := s.pending = none ∧ s.inReset = false

end Sys2Proof.Machine
end

