-- ==== Sys2Proof/Certificates/Slice0/Obligations.lean ====
section
/-! DEFINITION. The statements handed to the provers, each from the rules its docstring names. -/

open Sys2Proof Sys2Proof.Machine

/-! ### Encoding -/

/-- R57, R58, R59: decoding an encoded well-formed command gives it back, from its word and from its bytes with anything
after them; and a word that decodes to a command is that well-formed command's encoding. -/
def Obligations.EncodingIsOneToOne : Prop :=
  (∀ i : Instr, WellFormed i →
    decodeWord (encode i) = .ok i ∧ ∀ rest : List Byte, decode (encodeBytes i ++ rest) = .ok (i, rest)) ∧
  (∀ (w : Word) (i : Instr), decodeWord w = .ok i → WellFormed i ∧ encode i = w)

/-- R59: the command words as the opcode map lists them. -/
def Obligations.CommandWordsDecodeAsListed : Prop :=
  decodeWord 0x00000000 = .ok .nop ∧ decodeWord 0x00000001 = .ok .construct ∧
  decodeWord 0x00000010 = .ok .keyexp ∧ decodeWord 0x00000011 = .ok .encrypt ∧
  decodeWord 0x00000020 = .ok .subbytes ∧ decodeWord 0x00000126 = .ok (.addroundkey 1) ∧
  decodeWord 0x00000A26 = .ok (.addroundkey 10) ∧ decodeWord 0x00000031 = .ok .gfmul

/-- R61: exactly which words are illegal; an illegal word is accepted like any other and completes with ILLEGAL_CMD,
changing nothing else; ADDROUNDKEY with ARG 11..15 is legal in encoding and completes with ILLEGAL_ARG; and only the NOP
word is NOP. -/
def Obligations.IllegalWordsCompleteWithIllegalCmd : Prop :=
  (∀ w : Word,
    (∃ e, decodeWord w = .error e) ↔
      (((0x05 ≤ (opField w).toNat ∧ (opField w).toNat ≤ 0x0F) ∨ (0x13 ≤ (opField w).toNat ∧ (opField w).toNat ≤ 0x1F) ∨
        (0x27 ≤ (opField w).toNat ∧ (opField w).toNat ≤ 0x2F) ∨ 0x34 ≤ (opField w).toNat) ∨
        rsvField w ≠ 0 ∨ (argField w ≠ 0 ∧ opField w ≠ 0x26))) ∧
  (∀ (w : Word) (s : State), (∃ e, decodeWord w = .error e) →
    perform w s = .next { s with err := .illegalCmd, pending := none }) ∧
  (∀ (w : Word) (s : State), s.busy = false →
    ∃ t n, busWrite .cmd w s = t ∧ t.cmd = w ∧ t.pending = some ⟨w, n⟩) ∧
  (∀ (n : BitVec 8) (s : State), 11 ≤ n.toNat → n.toNat ≤ 15 →
    decodeWord (0x26 ||| (n.setWidth 32 <<< 8)) = .ok (.addroundkey n) ∧
    exec (.addroundkey n) s = .next { s with err := .illegalArg, pending := none }) ∧
  (∀ w : Word, decodeWord w = .ok .nop → w = 0)

/-! ### The step, the command lifecycle and the agents -/

/-- R63: when a pending command's latency is over and reset does not come first, a step is the command's own meaning, or
ILLEGAL_CMD for an illegal word; and `withFetchWord` makes such a state for every word that decodes (log entry 4). -/
def Obligations.StepRunsThePendingCommand : Prop :=
  (∀ (s : State) (w : Word), s.inputs.head? ≠ some .assertReset → s.inReset = false → s.pending = some ⟨w, 0⟩ →
    (∀ i, decodeWord w = .ok i → step s = exec i s) ∧
    (∀ e, decodeWord w = .error e → step s = .next { s with err := .illegalCmd, pending := none })) ∧
  (∀ (s : State) (w : Nat) (i : Instr), decodeTableWord 32 w = some i →
    step (s.withFetchWord 32 w) = exec i (s.withFetchWord 32 w))

/-- R62: a host write to CMD while idle latches the word, makes it pending and sets BUSY, and changes nothing else of the
block; every 32-bit value is accepted; while BUSY = 1 the write is dropped. The counts of inputs and of latency draws are the
model's own (log entries 3 and 5). -/
def Obligations.AcceptanceLatchesTheWord : Prop :=
  ∀ (s : State) (v : Word) (rest : List Input), s.inReset = false → s.inputs = wr .cmd v :: rest →
    (s.pending = none →
      ∃ n, step s = .next { s with cmd := v, pending := some ⟨v, n⟩, issued := s.issued + 1, inputs := rest }) ∧
    (∀ (w : Word) (k : Nat), s.pending = some ⟨w, k + 1⟩ →
      step s = .next { s with pending := some ⟨w, k⟩, ovr := true, inputs := rest })

/-- R64: every command is a total function of the state; at completion nothing is pending, OVR is unchanged, and no command
writes CMD, KEY, DIN, MAT or GFOP (R60) or the agents' side of the state. -/
def Obligations.EveryCommandCompletes : Prop :=
  ∀ (i : Instr) (s : State), ∃ t, exec i s = .next t ∧ t.pending = none ∧ t.ovr = s.ovr ∧ t.cmd = s.cmd ∧
    t.key = s.key ∧ t.din = s.din ∧ t.mat0 = s.mat0 ∧ t.mat1 = s.mat1 ∧ t.gfop = s.gfop ∧ t.inReset = s.inReset ∧
    t.inputs = s.inputs ∧ t.trace = s.trace ∧ t.resets = s.resets ∧ t.busyReads = s.busyReads ∧ t.issued = s.issued

/-- R49, R50, R51: while a command is pending and its latency is not over, whatever the host does but a reset leaves every
register, table and STATUS field but OVR as it was, and the command still pending. -/
def Obligations.HostCannotDisturbAPendingCommand : Prop :=
  ∀ (s t : State) (w : Word) (k : Nat), s.inReset = false → s.inputs.head? ≠ some .assertReset →
    s.pending = some ⟨w, k + 1⟩ → step s = .next t → SameBlock s t ∧ t.pending = some ⟨w, k⟩ ∧ (s.ovr = true → t.ovr = true)

/-- R51, R52, R63: with any quiet inputs, a pending command is performed after the moves its latency leaves, and the block
then is as if it had been performed at once: host accesses in between neither see nor change it. The number of moves is the
model's latency (log entry 3). -/
def Obligations.CommandsAreAtomicAndComplete : Prop :=
  ∀ (s : State) (w : Word) (n : Nat), s.inReset = false → s.pending = some ⟨w, n⟩ → s.inputs.all quietInput = true →
    ∃ t u : State, Sys2Proof.core.run (n + 1) s = .next t ∧ perform w s = .next u ∧ t.pending = none ∧ SameBlock u t

/-- R68: `EXEC` on an idle machine ends, in some number of steps that the latency decides (log entry 3), with the command performed on the
state the write to CMD left, and the rest of the script next. -/
def Obligations.ExecScriptPerformsTheCommand : Prop :=
  ∀ (s : State) (i : Instr) (rest : List Input), Idle s → WellFormed i → s.inputs = execScript i ++ rest →
    ∃ (k : Nat) (t u : State), Sys2Proof.core.run k s = .next t ∧ exec i { s with cmd := encode i } = .next u ∧
      t.inputs = rest ∧ t.pending = none ∧ t.ovr = s.ovr ∧ SameBlock u t

/-- R43, R68: the four writes of `LDBLK` put the block in DIN, bytes packed little-endian, and change nothing else. -/
def Obligations.LoadBlockScriptLoadsDin : Prop :=
  ∀ (s : State) (b : Block) (rest : List Input), Idle s → s.inputs = ldblk b ++ rest →
    ∃ d, Sys2Proof.core.run 4 s = .next { s with din := d, inputs := rest } ∧
      (∀ (j c : Fin 4), lane d[j] c = b[4 * j.val + c.val])

/-! ### Invariants and whole-machine rules -/

/-- R39, R135: the state after reset meets the invariant. -/
def Obligations.ResetMeetsTheInvariant : Prop := Inv State.reset

/-- R22, R23, R37: the invariant is kept by every step, from every state that meets it. -/
def Obligations.StepKeepsTheInvariant : Prop :=
  ∀ s t : State, Inv s → step s = .next t → Inv t

/-- R22: KEYV rises only when a KEYEXP is performed on a permutation; it falls only when a KEYEXP fails, at a CONSTRUCT, at
an accepted host write to KEY or to the SBOX window, or at reset. -/
def Obligations.KeyvChangesOnlyAsListed : Prop :=
  ∀ s t : State, step s = .next t →
    (s.keyv = false → t.keyv = true →
      ∃ w, s.pending = some ⟨w, 0⟩ ∧ decodeWord w = .ok .keyexp ∧ Permutation s.sbox) ∧
    (s.keyv = true → t.keyv = false →
      (∃ w, s.pending = some ⟨w, 0⟩ ∧
        ((decodeWord w = .ok .keyexp ∧ ¬ Permutation s.sbox) ∨ decodeWord w = .ok .construct)) ∨
      (s.pending = none ∧ ∃ v, (∃ j, s.inputs.head? = some (wr (.key j) v)) ∨
        (∃ k, s.inputs.head? = some (wr (.sbox k) v))) ∨
      (s.inReset = true ∧ s.inputs.head? = some .releaseReset))

/-- R25: OVR rises only when a host write is dropped because BUSY = 1; it falls only at a host write to STATUS with bit 4
set while BUSY = 0, or at reset; commands never change it. -/
def Obligations.OvrChangesOnlyAsListed : Prop :=
  (∀ s t : State, step s = .next t →
    (s.ovr = false → t.ovr = true →
      s.busy = true ∧ ∃ r v, s.inputs.head? = some (wr r v)) ∧
    (s.ovr = true → t.ovr = false →
      (s.busy = false ∧ ∃ v, s.inputs.head? = some (wr .status v) ∧ v.getLsbD 4 = true) ∨
      (s.inReset = true ∧ s.inputs.head? = some .releaseReset))) ∧
  (∀ (r : Reg) (v : Word) (s : State), s.busy = true → (busWrite r v s).ovr = true) ∧
  (∀ (v : Word) (s : State), s.busy = false → v.getLsbD 4 = true → (busWrite .status v s).ovr = false) ∧
  (∀ (w : Word) (s t : State), perform w s = .next t → t.ovr = s.ovr) ∧
  (∀ n : Nat, (State.afterReset n).ovr = false)

/-- R130: a command whose code is NO_KEY, ILLEGAL_CMD or ILLEGAL_ARG has made no write but ERR and BUSY. -/
def Obligations.RefusedCommandsWriteOnlyErr : Prop :=
  ∀ (w : Word) (s t : State), perform w s = .next t →
    t.err = .noKey ∨ t.err = .illegalCmd ∨ t.err = .illegalArg →
    t = { s with err := t.err, pending := none }

/-! ### The register window -/

/-- R20: STATUS reads as its field layout at all times, busy or not; ERR is one of the codes 0 to 5 (R126); it is 0 after
reset; a host write while idle clears OVR exactly when bit 4 is set, and changes nothing else. -/
def Obligations.StatusLayoutAndWrite : Prop :=
  (∀ s : State, busRead .status s = (statusWord s, s) ∧
    (statusWord s).getLsbD 0 = s.busy ∧ (statusWord s).getLsbD 1 = s.keyv ∧ (statusWord s).getLsbD 2 = s.bij ∧
    (statusWord s).getLsbD 3 = s.minv ∧ (statusWord s).getLsbD 4 = s.ovr ∧ (statusWord s).extractLsb' 5 3 = 0 ∧
    (statusWord s).extractLsb' 8 4 = s.err.code ∧ s.err.code.toNat ≤ 5 ∧ (statusWord s).extractLsb' 12 4 = 0 ∧
    (statusWord s).extractLsb' 16 9 = s.distinct ∧ (statusWord s).extractLsb' 25 7 = 0) ∧
  statusWord State.reset = 0 ∧
  (∀ (s : State) (v : Word), s.busy = false →
    busWrite .status v s = { s with ovr := if v.getLsbD 4 then false else s.ovr })

/-- R41, R42: an access that is not an aligned 32-bit transfer with all strobes set, or is at an unmapped offset, gets a bus
error, read data 0 and no state change, busy or not; every other access gets none; and a host step with such an access is a
fault. -/
def Obligations.IllegalAccessesGetABusError : Prop :=
  (∀ (s : State) (off : Offset) (size : Size),
    ((serve (.read off size) s).1 = .busError ↔ size ≠ .word ∨ off.toNat % 4 ≠ 0 ∨ Unmapped off)) ∧
  (∀ (s : State) (off : Offset) (size : Size) (strobes : BitVec 4) (v : Word),
    ((serve (.write off size strobes v) s).1 = .busError ↔
      size ≠ .word ∨ strobes ≠ 0xF ∨ off.toNat % 4 ≠ 0 ∨ Unmapped off)) ∧
  (∀ (s : State) (a : Access), (serve a s).1 = .busError → (serve a s).2 = s ∧ (serve a s).1.data = 0) ∧
  (∀ (s : State) (a : Access) (rest : List Input), HostTurn s → s.inputs = .access a :: rest →
    (serve a s).1 = .busError → step s = .fault (.busError a.off))

/-- R47, R48: the effect of a legal host write while BUSY = 0, by offset; a write to a read-only register has none. The draw
of a latency is the model's own (log entry 3). -/
def Obligations.IdleWritesHaveTheListedEffects : Prop :=
  ∀ (s : State) (v : Word), s.busy = false →
    (∃ n, serve (write32 0x004 v) s = (.written, { s with cmd := v, pending := some ⟨v, n⟩, issued := s.issued + 1 })) ∧
    serve (write32 0x008 v) s = (.written, if v.getLsbD 4 then { s with ovr := false } else s) ∧
    (∀ j : Fin 4, serve (write32 (BitVec.ofNat 10 (0x010 + 4 * j.val)) v) s =
      (.written, { s with key := s.key.set j.val v, keyv := false })) ∧
    (∀ j : Fin 4, serve (write32 (BitVec.ofNat 10 (0x020 + 4 * j.val)) v) s =
      (.written, { s with din := s.din.set j.val v })) ∧
    serve (write32 0x040 v) s = (.written, { s with mat0 := v }) ∧
    serve (write32 0x044 v) s = (.written, { s with mat1 := v }) ∧
    serve (write32 0x048 v) s = (.written, { s with gfop := v.extractLsb' 0 16 }) ∧
    (∀ k : Fin 64, ∃ u : Table, serve (write32 (BitVec.ofNat 10 (0x100 + 4 * k.val)) v) s =
        (.written, { s with sbox := u, keyv := false }) ∧
      (∀ b : Fin 4, u[4 * k.val + b.val] = v.extractLsb' (8 * b.val) 8) ∧
      (∀ i : Fin 256, i.val / 4 ≠ k.val → u[i] = s.sbox[i])) ∧
    (∀ k : Fin 64, ∃ u : Table, serve (write32 (BitVec.ofNat 10 (0x200 + 4 * k.val)) v) s =
        (.written, { s with invsbox := u }) ∧
      (∀ b : Fin 4, u[4 * k.val + b.val] = v.extractLsb' (8 * b.val) 8) ∧
      (∀ i : Fin 256, i.val / 4 ≠ k.val → u[i] = s.invsbox[i])) ∧
    serve (write32 0x000 v) s = (.written, s) ∧
    (∀ j : Fin 4, serve (write32 (BitVec.ofNat 10 (0x030 + 4 * j.val)) v) s = (.written, s)) ∧
    serve (write32 0x04C v) s = (.written, s) ∧
    (∀ k : Fin 44, serve (write32 (BitVec.ofNat 10 (0x300 + 4 * k.val)) v) s = (.written, s))

/-- R49: while BUSY = 1 every legal host write to a mapped offset is dropped and sets OVR. -/
def Obligations.BusyWritesAreDropped : Prop :=
  ∀ (s : State) (off : Offset) (v : Word), s.busy = true → off.toNat % 4 = 0 → ¬ Unmapped off →
    serve (write32 off v) s = (.written, { s with ovr := true })

/-- R50: while BUSY = 1 a read of ID or STATUS is exact, and a read of any other mapped offset returns the next free value,
with no effect but the count of draws (log entry 2). -/
def Obligations.BusyReadsAreExactOnlyForIdAndStatus : Prop :=
  ∀ s : State, s.busy = true →
    serve (read32 0x000) s = (.readData 0x41455358, s) ∧
    serve (read32 0x008) s = (.readData (statusWord s), s) ∧
    (∀ off : Offset, off.toNat % 4 = 0 → ¬ Unmapped off → off ≠ 0x000 → off ≠ 0x008 →
      serve (read32 off) s = (.readData (Config.busyRead s.busyReads), { s with busyReads := s.busyReads + 1 }))

/-- R17, R18, R28 to R36, R43: what a read returns at each mapped offset while idle. -/
def Obligations.IdleReadsReturnTheRegisters : Prop :=
  ∀ s : State, s.busy = false →
    serve (read32 0x000) s = (.readData 0x41455358, s) ∧
    serve (read32 0x004) s = (.readData s.cmd, s) ∧
    serve (read32 0x008) s = (.readData (statusWord s), s) ∧
    (∀ j : Fin 4, serve (read32 (BitVec.ofNat 10 (0x010 + 4 * j.val))) s = (.readData s.key[j], s)) ∧
    (∀ j : Fin 4, serve (read32 (BitVec.ofNat 10 (0x020 + 4 * j.val))) s = (.readData s.din[j], s)) ∧
    (∀ j : Fin 4, serve (read32 (BitVec.ofNat 10 (0x030 + 4 * j.val))) s = (.readData s.dout[j], s)) ∧
    serve (read32 0x040) s = (.readData s.mat0, s) ∧
    serve (read32 0x044) s = (.readData s.mat1, s) ∧
    (∃ v, serve (read32 0x048) s = (.readData v, s) ∧ v.extractLsb' 0 8 = gfopA s ∧ v.extractLsb' 8 8 = gfopB s ∧
      v.extractLsb' 16 16 = 0) ∧
    (∃ v, serve (read32 0x04C) s = (.readData v, s) ∧ v.extractLsb' 0 8 = s.gfres ∧ v.extractLsb' 8 24 = 0) ∧
    (∀ k : Fin 64, ∃ v, serve (read32 (BitVec.ofNat 10 (0x100 + 4 * k.val))) s = (.readData v, s) ∧
      ∀ b : Fin 4, v.extractLsb' (8 * b.val) 8 = s.sbox[4 * k.val + b.val]) ∧
    (∀ k : Fin 64, ∃ v, serve (read32 (BitVec.ofNat 10 (0x200 + 4 * k.val))) s = (.readData v, s) ∧
      ∀ b : Fin 4, v.extractLsb' (8 * b.val) 8 = s.invsbox[4 * k.val + b.val]) ∧
    (∀ k : Fin 44, serve (read32 (BitVec.ofNat 10 (0x300 + 4 * k.val))) s = (.readData s.rk[k], s))

/-- R46: no read has a side effect on the block, and while BUSY = 0 a read gives the same value after any other read. What a
read may advance is the count of draws, the model's own (log entry 2). -/
def Obligations.ReadsHaveNoSideEffect : Prop :=
  (∀ (s : State) (off : Offset) (size : Size),
    (serve (.read off size) s).2 = { s with busyReads := (serve (.read off size) s).2.busyReads }) ∧
  (∀ (s : State) (a b : Offset) (m n : Size), s.busy = false →
    (serve (.read a m) s).2 = s ∧ (serve (.read a m) (serve (.read b n) s).2).1 = (serve (.read a m) s).1)

/-- R39: the registers and STATUS fields after reset, and the tables as draws that nothing constrains (log entry 1). -/
def Obligations.ResetValues : Prop :=
  readReg .id State.reset = 0x41455358 ∧ State.reset.cmd = 0 ∧ State.reset.pending = none ∧
  State.reset.keyv = false ∧ State.reset.bij = false ∧ State.reset.minv = false ∧ State.reset.ovr = false ∧
  State.reset.err = .none ∧ State.reset.distinct = 0 ∧
  (∀ j : Fin 4, State.reset.key[j] = 0 ∧ State.reset.din[j] = 0 ∧ State.reset.dout[j] = 0) ∧
  State.reset.mat0 = 0 ∧ State.reset.mat1 = 0 ∧ State.reset.gfop = 0 ∧ State.reset.gfres = 0 ∧
  (∀ i : Fin 256, State.reset.sbox[i] = Config.resetSbox 0 i.val ∧ State.reset.invsbox[i] = Config.resetInvsbox 0 i.val) ∧
  (∀ k : Fin 44, State.reset.rk[k] = Config.resetRk 0 k.val)

/-- R135, R136: asserting reset abandons the pending command with none of its effects, before anything else (R129); while it
is asserted no command is performed and no access served; released, every register and STATUS field holds its reset value,
the tables fresh draws. -/
def Obligations.ResetAbandonsAndClears : Prop :=
  (∀ (s : State) (rest : List Input), s.inputs = .assertReset :: rest →
    step s = .next { s with inputs := rest, inReset := true, pending := none }) ∧
  (∀ (s : State) (a : Access) (rest : List Input), s.inReset = true → s.inputs = .access a :: rest →
    step s = .refused .accessDuringReset) ∧
  (∀ (s t : State), s.inReset = true → s.inputs.head? ≠ some .releaseReset → step s = .next t →
    SameBlock s t ∧ t.inReset = true) ∧
  (∀ (s : State) (rest : List Input), s.inReset = true → s.inputs = .releaseReset :: rest →
    ∃ t, step s = .next t ∧ t.inReset = false ∧ t.pending = none ∧ readReg .id t = 0x41455358 ∧ readReg .cmd t = 0 ∧
      readReg .status t = 0 ∧ (∀ j : Fin 4, readReg (.key j) t = 0 ∧ readReg (.din j) t = 0 ∧ readReg (.dout j) t = 0) ∧
      readReg .mat0 t = 0 ∧ readReg .mat1 t = 0 ∧ readReg .gfop t = 0 ∧ readReg .gfres t = 0 ∧
      (∀ i : Fin 256, t.sbox[i] = Config.resetSbox (s.resets + 1) i.val ∧
        t.invsbox[i] = Config.resetInvsbox (s.resets + 1) i.val) ∧
      (∀ k : Fin 44, t.rk[k] = Config.resetRk (s.resets + 1) k.val) ∧ t.inputs = rest ∧ t.trace = s.trace)

/-! ### GF(2^8), the affine map and the determinant parity -/

/-- R72: the laws of the field product. -/
def Obligations.FieldProductLaws : Prop :=
  (∀ a b : Byte, gmul a b = gmul b a) ∧
  (∀ a b c : Byte, gmul (gmul a b) c = gmul a (gmul b c)) ∧
  (∀ a b c : Byte, gmul a (b ^^^ c) = gmul a b ^^^ gmul a c) ∧
  (∀ a : Byte, gmul a 0x01 = a ∧ gmul a 0x00 = 0x00 ∧ gmul a 0x02 = xtime a) ∧
  (∀ a : Byte, a ≠ 0 → ∃ y, gmul a y = 0x01 ∧ ∀ z, gmul a z = 0x01 → z = y)

/-- R73: `ginv(0) = 0`, else `ginv(a)` is the unique `y` with `a • y = 1`; and, from R72, it is a bijection and its own inverse. -/
def Obligations.GinvIsTheUniqueInverse : Prop :=
  ginv 0x00 = 0x00 ∧ (∀ a y : Byte, a ≠ 0x00 → (gmul a y = 0x01 ↔ y = ginv a)) ∧
  (∀ a : Byte, ginv (ginv a) = a) ∧ (∀ y : Byte, ∃ a, ginv a = y)

/-- R75, R76: each bit of `affine(M, y)`, and the corollaries. -/
def Obligations.AffineMapAndCorollaries : Prop :=
  (∀ (m : AffineMatrix) (y : Byte) (r : Fin 8), (affine m y).getLsbD r.val =
    ((m.getLsbD (8 * r.val) && y.getLsbD 0) ^^ (m.getLsbD (8 * r.val + 1) && y.getLsbD 1) ^^
     (m.getLsbD (8 * r.val + 2) && y.getLsbD 2) ^^ (m.getLsbD (8 * r.val + 3) && y.getLsbD 3) ^^
     (m.getLsbD (8 * r.val + 4) && y.getLsbD 4) ^^ (m.getLsbD (8 * r.val + 5) && y.getLsbD 5) ^^
     (m.getLsbD (8 * r.val + 6) && y.getLsbD 6) ^^ (m.getLsbD (8 * r.val + 7) && y.getLsbD 7) ^^
     (0x63 : Byte).getLsbD r.val)) ∧
  (∀ m : AffineMatrix, affine m 0x00 = 0x63) ∧ (∀ y : Byte, affine 0 y = 0x63) ∧
  (∀ y : Byte, affine ((0x80402010 : Word) ++ (0x08040201 : Word)) y = y ^^^ 0x63) ∧
  (∀ (m : AffineMatrix) (y z : Byte), affine m y ^^^ affine m z = affine m (y ^^^ z) ^^^ 0x63)

/-- R78: DetParity is the determinant of the 0/1 matrix mod 2. -/
def Obligations.DetParityIsTheDeterminant : Prop :=
  ∀ m : AffineMatrix,
    Matrix.det (Matrix.of fun r c : Fin 8 => if matEntry m r c then (1 : ZMod 2) else 0) = if detParity m then 1 else 0

/-- R76: `y ↦ affine(M, y)` is a bijection of the 256 bytes exactly when M is invertible. -/
def Obligations.AffineIsBijectiveIffInvertible : Prop :=
  ∀ m : AffineMatrix, (Function.Bijective (affine m) ↔ detParity m = true)

/-! ### The commands -/

/-- R115: NOP sets ERR to NONE and changes nothing else; no other word has its OP. -/
def Obligations.NopOnlyClearsErr : Prop :=
  OnlyWordOf 0x00000000 .nop ∧ ∀ s : State, exec .nop s = .next { s with err := .none, pending := none }

/-- R79: GFRES takes the inverse of operand A. -/
def Obligations.GfinvWritesTheInverse : Prop :=
  OnlyWordOf 0x00000030 .gfinv ∧
  (∀ s : State, exec .gfinv s = .next { s with gfres := ginv (s.gfop.extractLsb' 0 8), err := .none, pending := none }) ∧
  ginv 0x00 = 0x00 ∧ ginv 0x01 = 0x01 ∧ ginv 0x53 = 0xCA

/-- R80: GFRES takes the field product of operands A and B. -/
def Obligations.GfmulWritesTheProduct : Prop :=
  OnlyWordOf 0x00000031 .gfmul ∧
  (∀ s : State, exec .gfmul s =
    .next { s with gfres := gmul (s.gfop.extractLsb' 0 8) (s.gfop.extractLsb' 8 8), err := .none, pending := none }) ∧
  (∀ a : Byte, gmul 0x00 a = 0x00 ∧ gmul a 0x00 = 0x00 ∧ gmul a 0x02 = xtime a ∧ (a ≠ 0 → gmul a (ginv a) = 0x01)) ∧
  gmul 0xFF 0xFF = 0x13 ∧ gmul 0x57 0x83 = 0xC1

/-- R81: GFRES takes the affine image of operand A; MINV is not written. -/
def Obligations.AffineWritesTheImage : Prop :=
  OnlyWordOf 0x00000032 .affine ∧
  (∀ s : State, exec .affine s = .next { s with
    gfres := affine (s.mat1 ++ s.mat0) (s.gfop.extractLsb' 0 8), err := .none, pending := none }) ∧
  (∀ m : AffineMatrix, affine m 0x00 = 0x63) ∧ (∀ y : Byte, affine 0 y = 0x63) ∧
  (∀ y : Byte, affine ((0x80402010 : Word) ++ (0x08040201 : Word)) y = y ^^^ 0x63) ∧
  affine ((0xF87C3E1F : Word) ++ (0x8FC7E3F1 : Word)) 0xCA = 0xED

/-- R82: GFRES takes the affine image of the inverse of operand A, the entry CONSTRUCT writes at index A. -/
def Obligations.AffinvWritesTheConstructorEntry : Prop :=
  OnlyWordOf 0x00000033 .affinv ∧
  (∀ s : State, ∃ y : Byte, exec .affinv s = .next { s with gfres := y, err := .none, pending := none } ∧
    y = affine (s.mat1 ++ s.mat0) (ginv (s.gfop.extractLsb' 0 8)) ∧
    ∃ t, exec .construct s = .next t ∧ lookup t.sbox (s.gfop.extractLsb' 0 8) = y) ∧
  (∀ m : AffineMatrix, affine m (ginv 0x00) = 0x63) ∧
  affine ((0xF87C3E1F : Word) ++ (0x8FC7E3F1 : Word)) (ginv 0x53) = 0xED

/-- R83: CONSTRUCT writes the whole table, MINV, the bijectivity record and KEYV = 0, and reports a singular matrix without
undoing any of it. -/
def Obligations.ConstructBuildsTheTable : Prop :=
  OnlyWordOf 0x00000001 .construct ∧
  ∀ s : State, ∃ (u : Table) (d : BitVec 9),
    exec .construct s = .next { s with
      sbox := u, minv := detParity (s.mat1 ++ s.mat0), distinct := d, bij := decide (d = 256), keyv := false,
      err := if detParity (s.mat1 ++ s.mat0) then .none else .singularMatrix, pending := none } ∧
    (∀ x : Byte, lookup u x = affine (s.mat1 ++ s.mat0) (ginv x)) ∧ d.toNat = valueCount u ∧
    (s.mat0 = 0 → s.mat1 = 0 → d = 1 ∧ ∀ x : Byte, lookup u x = 0x63)

/-- R84: after a CONSTRUCT, BIJ = MINV. -/
def Obligations.ConstructIsBijectiveIffInvertible : Prop :=
  ∀ s : State, ∃ t, exec .construct s = .next t ∧ t.bij = t.minv ∧ (t.minv = true ↔ Permutation t.sbox)

/-- R85: DETPAR writes MINV and its report alone; a matrix with two equal rows is singular. -/
def Obligations.DetparReportsTheParity : Prop :=
  OnlyWordOf 0x00000002 .detpar ∧
  (∀ s : State, exec .detpar s = .next { s with
    minv := detParity (s.mat1 ++ s.mat0),
    err := if detParity (s.mat1 ++ s.mat0) then .none else .singularMatrix, pending := none }) ∧
  detParity 0 = false ∧ detParity ((0x80402010 : Word) ++ (0x08040201 : Word)) = true ∧
  (∀ (m : AffineMatrix) (r q : Fin 8), r ≠ q → matRow m r = matRow m q → detParity m = false)

/-- R86: VALIDATE writes DISTINCT, BIJ and their report alone. -/
def Obligations.ValidateCountsDistinctValues : Prop :=
  OnlyWordOf 0x00000003 .validate ∧
  ∀ s : State, ∃ (d : BitVec 9) (b : Bool),
    exec .validate s = .next { s with
      distinct := d, bij := b, err := if b then .none else .invalidSbox, pending := none } ∧
    d.toNat = valueCount s.sbox ∧ (b = true ↔ d = 256) ∧ (b = true ↔ Permutation s.sbox)

/-- R87: after INVERT, entry `v` is the largest index SBOX maps to `v`, and 0 where it maps none; nothing else changes. -/
def Obligations.InvertTakesTheLargestIndex : Prop :=
  OnlyWordOf 0x00000004 .invert ∧
  ∀ s : State, ∃ u : Table,
    exec .invert s = .next { s with invsbox := u, err := .none, pending := none } ∧
    (∀ v : Byte, (∀ i : Byte, lookup s.sbox i ≠ v) → lookup u v = 0x00) ∧
    (∀ i : Byte, (∀ j : Byte, i.toNat < j.toNat → lookup s.sbox j ≠ lookup s.sbox i) → lookup u (lookup s.sbox i) = i)

/-- R88: INVERT of a permutation is its inverse on both sides. -/
def Obligations.InvertUndoesAPermutation : Prop :=
  ∀ s : State, Permutation s.sbox → ∃ t, exec .invert s = .next t ∧ InverseTables s.sbox t.invsbox

/-- R89: the round constants. -/
def Obligations.RoundConstantsDouble : Prop :=
  rcon 0 = 0x01 ∧ (∀ j, rcon (j + 1) = xtime (rcon j)) ∧
  (List.range 15).map rcon = [0x01, 0x02, 0x04, 0x08, 0x10, 0x20, 0x40, 0x80, 0x1B, 0x36, 0x6C, 0xD8, 0xAB, 0x4D, 0x9A]

/-- R90, R91, R92: every byte of every word of the key expansion. -/
def Obligations.KeyExpansionRecurrence : Prop :=
  ∀ (key : Vector Word 4) (t : Table),
    (∀ i : Fin 4, (keyExpansion key t)[i.val] = key[i]) ∧
    (∀ (i : Nat) (h : 4 ≤ i) (h' : i < 44),
      let old := (keyExpansion key t)[i - 4]
      let prev := (keyExpansion key t)[i - 1]
      let new := (keyExpansion key t)[i]
      (i % 4 ≠ 0 → ∀ j : Fin 4, lane new j = lane old j ^^^ lane prev j) ∧
      (i % 4 = 0 →
        lane new 0 = lane old 0 ^^^ (lookup t (lane prev 1) ^^^ rcon (i / 4 - 1)) ∧
        lane new 1 = lane old 1 ^^^ lookup t (lane prev 2) ∧
        lane new 2 = lane old 2 ^^^ lookup t (lane prev 3) ∧
        lane new 3 = lane old 3 ^^^ lookup t (lane prev 0)))

/-- R93: KEYEXP records DISTINCT and BIJ; on a permutation it writes RK and sets KEYV; on any other table it clears KEYV,
leaves RK and reports INVALID_SBOX. -/
def Obligations.KeyexpExpandsOrReports : Prop :=
  OnlyWordOf 0x00000010 .keyexp ∧
  (∀ s : State, Permutation s.sbox → exec .keyexp s = .next { s with
    distinct := 256, bij := true, rk := keyExpansion s.key s.sbox, keyv := true, err := .none, pending := none }) ∧
  (∀ s : State, ¬ Permutation s.sbox → ∃ d : BitVec 9, d.toNat = valueCount s.sbox ∧ exec .keyexp s = .next { s with
    distinct := d, bij := false, keyv := false, err := .invalidSbox, pending := none })

/-- R97, R103: SUBBYTES replaces each byte of DIN through SBOX, whatever it holds. -/
def Obligations.SubbytesSubstitutesEachByte : Prop :=
  OnlyWordOf 0x00000020 .subbytes ∧
  ∀ s : State, ∃ d, exec .subbytes s = .next { s with dout := d, err := .none, pending := none } ∧
    ∀ k : Fin 16, (blockOfWords d)[k] = lookup s.sbox (blockOfWords s.din)[k]

/-- R97, R104: INVSUBBYTES replaces each byte of DIN through INVSBOX, whatever it holds. -/
def Obligations.InvsubbytesSubstitutesEachByte : Prop :=
  OnlyWordOf 0x00000021 .invsubbytes ∧
  ∀ s : State, ∃ d, exec .invsubbytes s = .next { s with dout := d, err := .none, pending := none } ∧
    ∀ k : Fin 16, (blockOfWords d)[k] = lookup s.invsbox (blockOfWords s.din)[k]

/-- R95, R96, R98, R105: row `r` of the state is rotated left by `r`. -/
def Obligations.ShiftrowsRotatesRowsLeft : Prop :=
  OnlyWordOf 0x00000022 .shiftrows ∧
  ∀ s : State, ∃ d, exec .shiftrows s = .next { s with dout := d, err := .none, pending := none } ∧
    ∀ r c : Fin 4, (blockOfWords d)[r.val + 4 * c.val] =
      (blockOfWords s.din)[r.val + 4 * ((c.val + r.val) % 4)]

/-- R95, R96, R98, R106: row `r` of the state is rotated right by `r`. -/
def Obligations.InvshiftrowsRotatesRowsRight : Prop :=
  OnlyWordOf 0x00000023 .invshiftrows ∧
  ∀ s : State, ∃ d, exec .invshiftrows s = .next { s with dout := d, err := .none, pending := none } ∧
    ∀ r c : Fin 4, (blockOfWords d)[r.val + 4 * ((c.val + r.val) % 4)] = (blockOfWords s.din)[r.val + 4 * c.val]

/-- R95, R96, R100, R107: each column, byte 0 of it lowest in its register, through the forward coefficients. -/
def Obligations.MixcolumnsMixesEachColumn : Prop :=
  OnlyWordOf 0x00000024 .mixcolumns ∧
  ∀ s : State, ∃ d, exec .mixcolumns s = .next { s with dout := d, err := .none, pending := none } ∧
    ∀ c : Fin 4,
      let a := fun k : Fin 4 => lane s.din[c] k
      lane d[c] 0 = gmul 0x02 (a 0) ^^^ gmul 0x03 (a 1) ^^^ gmul 0x01 (a 2) ^^^ gmul 0x01 (a 3) ∧
      lane d[c] 1 = gmul 0x01 (a 0) ^^^ gmul 0x02 (a 1) ^^^ gmul 0x03 (a 2) ^^^ gmul 0x01 (a 3) ∧
      lane d[c] 2 = gmul 0x01 (a 0) ^^^ gmul 0x01 (a 1) ^^^ gmul 0x02 (a 2) ^^^ gmul 0x03 (a 3) ∧
      lane d[c] 3 = gmul 0x03 (a 0) ^^^ gmul 0x01 (a 1) ^^^ gmul 0x01 (a 2) ^^^ gmul 0x02 (a 3)

/-- R95, R96, R101, R108: each column through the inverse coefficients. -/
def Obligations.InvmixcolumnsMixesEachColumn : Prop :=
  OnlyWordOf 0x00000025 .invmixcolumns ∧
  ∀ s : State, ∃ d, exec .invmixcolumns s = .next { s with dout := d, err := .none, pending := none } ∧
    ∀ c : Fin 4,
      let a := fun k : Fin 4 => lane s.din[c] k
      lane d[c] 0 = gmul 0x0E (a 0) ^^^ gmul 0x0B (a 1) ^^^ gmul 0x0D (a 2) ^^^ gmul 0x09 (a 3) ∧
      lane d[c] 1 = gmul 0x09 (a 0) ^^^ gmul 0x0E (a 1) ^^^ gmul 0x0B (a 2) ^^^ gmul 0x0D (a 3) ∧
      lane d[c] 2 = gmul 0x0D (a 0) ^^^ gmul 0x09 (a 1) ^^^ gmul 0x0E (a 2) ^^^ gmul 0x0B (a 3) ∧
      lane d[c] 3 = gmul 0x0B (a 0) ^^^ gmul 0x0D (a 1) ^^^ gmul 0x09 (a 2) ^^^ gmul 0x0E (a 3)

/-- R102, R109, R129: ADDROUNDKEY n XORs column `c` of DIN with word `4n + c`; ILLEGAL_ARG comes before NO_KEY. -/
def Obligations.AddroundkeyXorsTheRoundKey : Prop :=
  (∀ n : Fin 16, decodeWord (BitVec.ofNat 32 (0x26 ||| (n.val <<< 8))) = .ok (.addroundkey (BitVec.ofNat 8 n.val))) ∧
  (∀ (s : State) (n : BitVec 8), 10 < n.toNat →
    exec (.addroundkey n) s = .next { s with err := .illegalArg, pending := none }) ∧
  (∀ (s : State) (n : BitVec 8), n.toNat ≤ 10 → s.keyv = false →
    exec (.addroundkey n) s = .next { s with err := .noKey, pending := none }) ∧
  (∀ (s : State) (n : BitVec 8) (h : n.toNat ≤ 10), s.keyv = true →
    ∃ d, exec (.addroundkey n) s = .next { s with dout := d, err := .none, pending := none } ∧
      ∀ c r : Fin 4, lane d[c] r = lane s.din[c] r ^^^ lane s.rk[4 * n.toNat + c.val] r)

/-- R98, R101, R102: the inverse of each position transform, column transform and key addition. -/
def Obligations.InverseTransformsUndo : Prop :=
  ∀ (g : Grid) (rk : Schedule) (n : Fin 11),
    invShiftRows (shiftRows g) = g ∧ shiftRows (invShiftRows g) = g ∧
    invMixColumns (mixColumns g) = g ∧ mixColumns (invMixColumns g) = g ∧
    addRoundKey (addRoundKey g rk n) rk n = g

/-- R110, R112: ENCRYPT without a valid schedule reports NO_KEY and leaves DOUT; with one, DOUT takes the last of the states
`g 0` to `g 9` of the rounds, through round 10 without MixColumns. INVSBOX is not read. -/
def Obligations.EncryptRunsTheTenRounds : Prop :=
  OnlyWordOf 0x00000011 .encrypt ∧
  (∀ s : State, s.keyv = false → exec .encrypt s = .next { s with err := .noKey, pending := none }) ∧
  (∀ s : State, s.keyv = true → ∃ (g : Nat → Grid) (d : Vector Word 4),
    exec .encrypt s = .next { s with dout := d, err := .none, pending := none } ∧
    g 0 = addRoundKey (load (blockOfWords s.din)) s.rk 0 ∧
    (∀ n : Fin 11, 1 ≤ n.val → n.val ≤ 9 →
      g n.val = addRoundKey (mixColumns (shiftRows (subBytes (g (n.val - 1)) s.sbox))) s.rk n) ∧
    blockOfWords d = store (addRoundKey (shiftRows (subBytes (g 9) s.sbox)) s.rk 10))

/-- R111, R113: DECRYPT without a valid schedule reports NO_KEY and leaves DOUT; with one, DOUT takes the reversed rounds
through INVSBOX, whatever it holds. SBOX is not read. -/
def Obligations.DecryptRunsTheRoundsInReverse : Prop :=
  OnlyWordOf 0x00000012 .decrypt ∧
  (∀ s : State, s.keyv = false → exec .decrypt s = .next { s with err := .noKey, pending := none }) ∧
  (∀ s : State, s.keyv = true → ∃ (g : Nat → Grid) (d : Vector Word 4),
    exec .decrypt s = .next { s with dout := d, err := .none, pending := none } ∧
    g 10 = addRoundKey (load (blockOfWords s.din)) s.rk 10 ∧
    (∀ n : Fin 11, 1 ≤ n.val → n.val ≤ 9 →
      g n.val = invMixColumns (addRoundKey (subBytes (invShiftRows (g (n.val + 1))) s.invsbox) s.rk n)) ∧
    blockOfWords d = store (addRoundKey (subBytes (invShiftRows (g 1)) s.invsbox) s.rk 0))

/-- R114: with a valid schedule and INVSBOX the inverse of SBOX, DECRYPT of ENCRYPT's output gives the input back, and
ENCRYPT of DECRYPT's likewise. -/
def Obligations.DecryptUndoesEncrypt : Prop :=
  ∀ s : State, s.keyv = true → InverseTables s.sbox s.invsbox →
    (∃ t u, exec .encrypt s = .next t ∧ exec .decrypt { t with din := t.dout } = .next u ∧ u.dout = s.din) ∧
    (∃ t u, exec .decrypt s = .next t ∧ exec .encrypt { t with din := t.dout } = .next u ∧ u.dout = s.din)

/-! ### Host procedures -/

/-- R117, R118: a key of another length than 16, and an S-box of another length than 256 or with an element that
is not an integer in [0,255], are refused before any block access; others are loaded and validated, and VALIDATE reports
bijectivity; an inverse is derived with INVERT or loaded with LDINV. -/
def Obligations.HostChecksItsInputs : Prop :=
  (∀ k : List Byte, k.length ≠ 16 → loadKeyScript k = .error .invalidKeyLength) ∧
  (∀ k : Block, loadKeyScript k.toList = .ok (ldkey k ++ execScript .keyexp)) ∧
  (∀ xs : List SboxElement,
    xs.length ≠ 256 ∨ .notInteger ∈ xs ∨ (∃ n : Int, .integer n ∈ xs ∧ (n < 0 ∨ 255 < n)) →
      loadSboxScript xs = .error .invalidSbox) ∧
  (∀ t : Table, loadSboxScript (t.toList.map fun b => .integer b.toNat) = .ok (ldsbox t ++ execScript .validate)) ∧
  (∀ s : State, ∃ t, exec .validate s = .next t ∧ (t.bij = true ↔ Permutation s.sbox)) ∧
  inverseScript none = execScript .invert ∧ (∀ inv : Table, inverseScript (some inv) = ldinv inv)

/-- From R120 and R121: padding always adds 1 to 16 bytes, each the count, to a positive multiple of 16; and unpadding, strict or
not, takes them off again. -/
def Obligations.UnpadUndoesPad : Prop :=
  ∀ (h : HostParams) (p : List Byte),
    (pad p).length = p.length + (16 - p.length % 16) ∧ (pad p).length % 16 = 0 ∧ p <+: pad p ∧
    (∀ b ∈ (pad p).drop p.length, b.toNat = 16 - p.length % 16) ∧ unpad h (pad p) = .ok p

/-- R121: unpadding a decrypted buffer, by its last byte and the OPEN host parameters. -/
def Obligations.UnpadFollowsTheLastByte : Prop :=
  ∀ (h : HostParams) (q : List Byte) (n : Byte), q.length % 16 = 0 → q.getLast? = some n →
    (h.strictUnpad = true → (n.toNat = 0 ∨ 16 < n.toNat) → unpad h q = .error .invalidPadding) ∧
    ((h.strictUnpad = false ∨ n.toNat ≤ 16) → 1 ≤ n.toNat → n.toNat ≤ q.length →
      unpad h q = .ok (q.take (q.length - n.toNat))) ∧
    (h.strictUnpad = false → (n.toNat = 0 ∨ q.length < n.toNat) → unpad h q = h.unpadDegenerate q)

/-- R122, R124: with KEYV = 1 on an idle machine, EncryptBuffer answers the blocks of the padded buffer, each through Cipher
alone, in order: a length that is a positive multiple of 16, and equal blocks for equal blocks. With KEYV = 0 it fails and
returns no ciphertext. The driver's WAIT and the report of a failure are the model's (log entries 12, 15 and 18). -/
def Obligations.EncryptBufferIsBlockwise : Prop :=
  (∀ (s : State) (p : List Byte), Idle s → s.keyv = true →
    ∃ (c : List Byte) (t : State), encryptBuffer p s = (.ok c, t) ∧
      c = ((blocksOf (pad p)).map fun b => (cipher b s.rk s.sbox).toList).flatten ∧
      c.length = p.length + (16 - p.length % 16)) ∧
  (∀ (s : State) (p : List Byte), Idle s → s.keyv = false → (encryptBuffer p s).1 = .error (.commandFailed 3))

/-- R123: DecryptBuffer refuses an empty buffer or one that is no multiple of 16 bytes, before any block access; how the
failure is named is the OPEN choice of report. -/
def Obligations.DecryptBufferRefusesBadLengths : Prop :=
  ∀ (h : HostParams) (c : List Byte) (s : State), c.length = 0 ∨ c.length % 16 ≠ 0 →
    decryptBuffer h c s =
      (.error (if h.coarseDecryptError then .decryptionFailed else .invalidCiphertextLength), s)

/-- R125: for a bijective SBOX with INVSBOX its inverse and KEYV = 1, DecryptBuffer of EncryptBuffer gives every buffer
back, strict or not. The driver's WAIT is the model's (log entry 12). -/
def Obligations.BuffersRoundTrip : Prop :=
  ∀ (h : HostParams) (s : State) (p : List Byte), Idle s → s.keyv = true → InverseTables s.sbox s.invsbox →
    ∃ (c : List Byte) (t : State), encryptBuffer p s = (.ok c, t) ∧ (decryptBuffer h c t).1 = .ok p
end

