-- ==== Sys2Proof/Laws/State.lean ====
section
/-! SUPPORT. What each shared update of the state leaves in each field. -/

namespace Sys2Proof.Machine

/-! Completion (R64). -/

@[simp] theorem complete_cmd (c : Err) (s : State) : (complete c s).cmd = s.cmd := rfl
@[simp] theorem complete_pending (c : Err) (s : State) : (complete c s).pending = none := rfl
@[simp] theorem complete_keyv (c : Err) (s : State) : (complete c s).keyv = s.keyv := rfl
@[simp] theorem complete_bij (c : Err) (s : State) : (complete c s).bij = s.bij := rfl
@[simp] theorem complete_minv (c : Err) (s : State) : (complete c s).minv = s.minv := rfl
@[simp] theorem complete_ovr (c : Err) (s : State) : (complete c s).ovr = s.ovr := rfl
@[simp] theorem complete_err (c : Err) (s : State) : (complete c s).err = c := rfl
@[simp] theorem complete_distinct (c : Err) (s : State) : (complete c s).distinct = s.distinct := rfl
@[simp] theorem complete_key (c : Err) (s : State) : (complete c s).key = s.key := rfl
@[simp] theorem complete_din (c : Err) (s : State) : (complete c s).din = s.din := rfl
@[simp] theorem complete_dout (c : Err) (s : State) : (complete c s).dout = s.dout := rfl
@[simp] theorem complete_mat0 (c : Err) (s : State) : (complete c s).mat0 = s.mat0 := rfl
@[simp] theorem complete_mat1 (c : Err) (s : State) : (complete c s).mat1 = s.mat1 := rfl
@[simp] theorem complete_gfop (c : Err) (s : State) : (complete c s).gfop = s.gfop := rfl
@[simp] theorem complete_gfres (c : Err) (s : State) : (complete c s).gfres = s.gfres := rfl
@[simp] theorem complete_sbox (c : Err) (s : State) : (complete c s).sbox = s.sbox := rfl
@[simp] theorem complete_invsbox (c : Err) (s : State) : (complete c s).invsbox = s.invsbox := rfl
@[simp] theorem complete_rk (c : Err) (s : State) : (complete c s).rk = s.rk := rfl
@[simp] theorem complete_inReset (c : Err) (s : State) : (complete c s).inReset = s.inReset := rfl
@[simp] theorem complete_inputs (c : Err) (s : State) : (complete c s).inputs = s.inputs := rfl
@[simp] theorem complete_trace (c : Err) (s : State) : (complete c s).trace = s.trace := rfl
@[simp] theorem complete_resets (c : Err) (s : State) : (complete c s).resets = s.resets := rfl
@[simp] theorem complete_busyReads (c : Err) (s : State) : (complete c s).busyReads = s.busyReads := rfl
@[simp] theorem complete_issued (c : Err) (s : State) : (complete c s).issued = s.issued := rfl

/-! Raising an outcome code (R65). -/

@[simp] theorem raiseErr_cmd (c : Err) (s : State) : (raiseErr c s).cmd = s.cmd := rfl
@[simp] theorem raiseErr_pending (c : Err) (s : State) : (raiseErr c s).pending = none := rfl
@[simp] theorem raiseErr_keyv (c : Err) (s : State) : (raiseErr c s).keyv = s.keyv := rfl
@[simp] theorem raiseErr_bij (c : Err) (s : State) : (raiseErr c s).bij = s.bij := rfl
@[simp] theorem raiseErr_minv (c : Err) (s : State) : (raiseErr c s).minv = s.minv := rfl
@[simp] theorem raiseErr_ovr (c : Err) (s : State) : (raiseErr c s).ovr = s.ovr := rfl
@[simp] theorem raiseErr_err (c : Err) (s : State) : (raiseErr c s).err = c := rfl
@[simp] theorem raiseErr_distinct (c : Err) (s : State) : (raiseErr c s).distinct = s.distinct := rfl
@[simp] theorem raiseErr_key (c : Err) (s : State) : (raiseErr c s).key = s.key := rfl
@[simp] theorem raiseErr_din (c : Err) (s : State) : (raiseErr c s).din = s.din := rfl
@[simp] theorem raiseErr_dout (c : Err) (s : State) : (raiseErr c s).dout = s.dout := rfl
@[simp] theorem raiseErr_mat0 (c : Err) (s : State) : (raiseErr c s).mat0 = s.mat0 := rfl
@[simp] theorem raiseErr_mat1 (c : Err) (s : State) : (raiseErr c s).mat1 = s.mat1 := rfl
@[simp] theorem raiseErr_gfop (c : Err) (s : State) : (raiseErr c s).gfop = s.gfop := rfl
@[simp] theorem raiseErr_gfres (c : Err) (s : State) : (raiseErr c s).gfres = s.gfres := rfl
@[simp] theorem raiseErr_sbox (c : Err) (s : State) : (raiseErr c s).sbox = s.sbox := rfl
@[simp] theorem raiseErr_invsbox (c : Err) (s : State) : (raiseErr c s).invsbox = s.invsbox := rfl
@[simp] theorem raiseErr_rk (c : Err) (s : State) : (raiseErr c s).rk = s.rk := rfl
@[simp] theorem raiseErr_inReset (c : Err) (s : State) : (raiseErr c s).inReset = s.inReset := rfl
@[simp] theorem raiseErr_inputs (c : Err) (s : State) : (raiseErr c s).inputs = s.inputs := rfl
@[simp] theorem raiseErr_trace (c : Err) (s : State) : (raiseErr c s).trace = s.trace := rfl
@[simp] theorem raiseErr_resets (c : Err) (s : State) : (raiseErr c s).resets = s.resets := rfl
@[simp] theorem raiseErr_busyReads (c : Err) (s : State) : (raiseErr c s).busyReads = s.busyReads := rfl
@[simp] theorem raiseErr_issued (c : Err) (s : State) : (raiseErr c s).issued = s.issued := rfl

/-! Writing DOUT (R30). -/

@[simp] theorem writeDout_cmd (b : Block) (s : State) : (writeDout b s).cmd = s.cmd := rfl
@[simp] theorem writeDout_pending (b : Block) (s : State) : (writeDout b s).pending = s.pending := rfl
@[simp] theorem writeDout_keyv (b : Block) (s : State) : (writeDout b s).keyv = s.keyv := rfl
@[simp] theorem writeDout_bij (b : Block) (s : State) : (writeDout b s).bij = s.bij := rfl
@[simp] theorem writeDout_minv (b : Block) (s : State) : (writeDout b s).minv = s.minv := rfl
@[simp] theorem writeDout_ovr (b : Block) (s : State) : (writeDout b s).ovr = s.ovr := rfl
@[simp] theorem writeDout_err (b : Block) (s : State) : (writeDout b s).err = s.err := rfl
@[simp] theorem writeDout_distinct (b : Block) (s : State) : (writeDout b s).distinct = s.distinct := rfl
@[simp] theorem writeDout_key (b : Block) (s : State) : (writeDout b s).key = s.key := rfl
@[simp] theorem writeDout_din (b : Block) (s : State) : (writeDout b s).din = s.din := rfl
@[simp] theorem writeDout_dout (b : Block) (s : State) : (writeDout b s).dout = wordsOfBlock b := rfl
@[simp] theorem writeDout_mat0 (b : Block) (s : State) : (writeDout b s).mat0 = s.mat0 := rfl
@[simp] theorem writeDout_mat1 (b : Block) (s : State) : (writeDout b s).mat1 = s.mat1 := rfl
@[simp] theorem writeDout_gfop (b : Block) (s : State) : (writeDout b s).gfop = s.gfop := rfl
@[simp] theorem writeDout_gfres (b : Block) (s : State) : (writeDout b s).gfres = s.gfres := rfl
@[simp] theorem writeDout_sbox (b : Block) (s : State) : (writeDout b s).sbox = s.sbox := rfl
@[simp] theorem writeDout_invsbox (b : Block) (s : State) : (writeDout b s).invsbox = s.invsbox := rfl
@[simp] theorem writeDout_rk (b : Block) (s : State) : (writeDout b s).rk = s.rk := rfl
@[simp] theorem writeDout_inReset (b : Block) (s : State) : (writeDout b s).inReset = s.inReset := rfl
@[simp] theorem writeDout_inputs (b : Block) (s : State) : (writeDout b s).inputs = s.inputs := rfl
@[simp] theorem writeDout_trace (b : Block) (s : State) : (writeDout b s).trace = s.trace := rfl
@[simp] theorem writeDout_resets (b : Block) (s : State) : (writeDout b s).resets = s.resets := rfl
@[simp] theorem writeDout_busyReads (b : Block) (s : State) : (writeDout b s).busyReads = s.busyReads := rfl
@[simp] theorem writeDout_issued (b : Block) (s : State) : (writeDout b s).issued = s.issued := rfl

/-! Writing GFRES (R33). -/

@[simp] theorem writeGfres_cmd (v : Byte) (s : State) : (writeGfres v s).cmd = s.cmd := rfl
@[simp] theorem writeGfres_pending (v : Byte) (s : State) : (writeGfres v s).pending = s.pending := rfl
@[simp] theorem writeGfres_keyv (v : Byte) (s : State) : (writeGfres v s).keyv = s.keyv := rfl
@[simp] theorem writeGfres_bij (v : Byte) (s : State) : (writeGfres v s).bij = s.bij := rfl
@[simp] theorem writeGfres_minv (v : Byte) (s : State) : (writeGfres v s).minv = s.minv := rfl
@[simp] theorem writeGfres_ovr (v : Byte) (s : State) : (writeGfres v s).ovr = s.ovr := rfl
@[simp] theorem writeGfres_err (v : Byte) (s : State) : (writeGfres v s).err = s.err := rfl
@[simp] theorem writeGfres_distinct (v : Byte) (s : State) : (writeGfres v s).distinct = s.distinct := rfl
@[simp] theorem writeGfres_key (v : Byte) (s : State) : (writeGfres v s).key = s.key := rfl
@[simp] theorem writeGfres_din (v : Byte) (s : State) : (writeGfres v s).din = s.din := rfl
@[simp] theorem writeGfres_dout (v : Byte) (s : State) : (writeGfres v s).dout = s.dout := rfl
@[simp] theorem writeGfres_mat0 (v : Byte) (s : State) : (writeGfres v s).mat0 = s.mat0 := rfl
@[simp] theorem writeGfres_mat1 (v : Byte) (s : State) : (writeGfres v s).mat1 = s.mat1 := rfl
@[simp] theorem writeGfres_gfop (v : Byte) (s : State) : (writeGfres v s).gfop = s.gfop := rfl
@[simp] theorem writeGfres_gfres (v : Byte) (s : State) : (writeGfres v s).gfres = v := rfl
@[simp] theorem writeGfres_sbox (v : Byte) (s : State) : (writeGfres v s).sbox = s.sbox := rfl
@[simp] theorem writeGfres_invsbox (v : Byte) (s : State) : (writeGfres v s).invsbox = s.invsbox := rfl
@[simp] theorem writeGfres_rk (v : Byte) (s : State) : (writeGfres v s).rk = s.rk := rfl
@[simp] theorem writeGfres_inReset (v : Byte) (s : State) : (writeGfres v s).inReset = s.inReset := rfl
@[simp] theorem writeGfres_inputs (v : Byte) (s : State) : (writeGfres v s).inputs = s.inputs := rfl
@[simp] theorem writeGfres_trace (v : Byte) (s : State) : (writeGfres v s).trace = s.trace := rfl
@[simp] theorem writeGfres_resets (v : Byte) (s : State) : (writeGfres v s).resets = s.resets := rfl
@[simp] theorem writeGfres_busyReads (v : Byte) (s : State) : (writeGfres v s).busyReads = s.busyReads := rfl
@[simp] theorem writeGfres_issued (v : Byte) (s : State) : (writeGfres v s).issued = s.issued := rfl

/-! Recording DISTINCT and BIJ (R23). -/

@[simp] theorem recordBijectivity_cmd (t : Table) (s : State) : (recordBijectivity t s).cmd = s.cmd := rfl
@[simp] theorem recordBijectivity_pending (t : Table) (s : State) : (recordBijectivity t s).pending = s.pending := rfl
@[simp] theorem recordBijectivity_keyv (t : Table) (s : State) : (recordBijectivity t s).keyv = s.keyv := rfl
@[simp] theorem recordBijectivity_bij (t : Table) (s : State) : (recordBijectivity t s).bij = bijective t := rfl
@[simp] theorem recordBijectivity_minv (t : Table) (s : State) : (recordBijectivity t s).minv = s.minv := rfl
@[simp] theorem recordBijectivity_ovr (t : Table) (s : State) : (recordBijectivity t s).ovr = s.ovr := rfl
@[simp] theorem recordBijectivity_err (t : Table) (s : State) : (recordBijectivity t s).err = s.err := rfl
@[simp] theorem recordBijectivity_distinct (t : Table) (s : State) : (recordBijectivity t s).distinct = distinctField t := rfl
@[simp] theorem recordBijectivity_key (t : Table) (s : State) : (recordBijectivity t s).key = s.key := rfl
@[simp] theorem recordBijectivity_din (t : Table) (s : State) : (recordBijectivity t s).din = s.din := rfl
@[simp] theorem recordBijectivity_dout (t : Table) (s : State) : (recordBijectivity t s).dout = s.dout := rfl
@[simp] theorem recordBijectivity_mat0 (t : Table) (s : State) : (recordBijectivity t s).mat0 = s.mat0 := rfl
@[simp] theorem recordBijectivity_mat1 (t : Table) (s : State) : (recordBijectivity t s).mat1 = s.mat1 := rfl
@[simp] theorem recordBijectivity_gfop (t : Table) (s : State) : (recordBijectivity t s).gfop = s.gfop := rfl
@[simp] theorem recordBijectivity_gfres (t : Table) (s : State) : (recordBijectivity t s).gfres = s.gfres := rfl
@[simp] theorem recordBijectivity_sbox (t : Table) (s : State) : (recordBijectivity t s).sbox = s.sbox := rfl
@[simp] theorem recordBijectivity_invsbox (t : Table) (s : State) : (recordBijectivity t s).invsbox = s.invsbox := rfl
@[simp] theorem recordBijectivity_rk (t : Table) (s : State) : (recordBijectivity t s).rk = s.rk := rfl
@[simp] theorem recordBijectivity_inReset (t : Table) (s : State) : (recordBijectivity t s).inReset = s.inReset := rfl
@[simp] theorem recordBijectivity_inputs (t : Table) (s : State) : (recordBijectivity t s).inputs = s.inputs := rfl
@[simp] theorem recordBijectivity_trace (t : Table) (s : State) : (recordBijectivity t s).trace = s.trace := rfl
@[simp] theorem recordBijectivity_resets (t : Table) (s : State) : (recordBijectivity t s).resets = s.resets := rfl
@[simp] theorem recordBijectivity_busyReads (t : Table) (s : State) : (recordBijectivity t s).busyReads = s.busyReads := rfl
@[simp] theorem recordBijectivity_issued (t : Table) (s : State) : (recordBijectivity t s).issued = s.issued := rfl

/-! Acceptance of a command word (R62). -/

@[simp] theorem accept_cmd (v : Word) (s : State) : (accept v s).cmd = v := rfl
@[simp] theorem accept_pending (v : Word) (s : State) : (accept v s).pending = some ⟨v, Config.latency s.issued v⟩ := rfl
@[simp] theorem accept_keyv (v : Word) (s : State) : (accept v s).keyv = s.keyv := rfl
@[simp] theorem accept_bij (v : Word) (s : State) : (accept v s).bij = s.bij := rfl
@[simp] theorem accept_minv (v : Word) (s : State) : (accept v s).minv = s.minv := rfl
@[simp] theorem accept_ovr (v : Word) (s : State) : (accept v s).ovr = s.ovr := rfl
@[simp] theorem accept_err (v : Word) (s : State) : (accept v s).err = s.err := rfl
@[simp] theorem accept_distinct (v : Word) (s : State) : (accept v s).distinct = s.distinct := rfl
@[simp] theorem accept_key (v : Word) (s : State) : (accept v s).key = s.key := rfl
@[simp] theorem accept_din (v : Word) (s : State) : (accept v s).din = s.din := rfl
@[simp] theorem accept_dout (v : Word) (s : State) : (accept v s).dout = s.dout := rfl
@[simp] theorem accept_mat0 (v : Word) (s : State) : (accept v s).mat0 = s.mat0 := rfl
@[simp] theorem accept_mat1 (v : Word) (s : State) : (accept v s).mat1 = s.mat1 := rfl
@[simp] theorem accept_gfop (v : Word) (s : State) : (accept v s).gfop = s.gfop := rfl
@[simp] theorem accept_gfres (v : Word) (s : State) : (accept v s).gfres = s.gfres := rfl
@[simp] theorem accept_sbox (v : Word) (s : State) : (accept v s).sbox = s.sbox := rfl
@[simp] theorem accept_invsbox (v : Word) (s : State) : (accept v s).invsbox = s.invsbox := rfl
@[simp] theorem accept_rk (v : Word) (s : State) : (accept v s).rk = s.rk := rfl
@[simp] theorem accept_inReset (v : Word) (s : State) : (accept v s).inReset = s.inReset := rfl
@[simp] theorem accept_inputs (v : Word) (s : State) : (accept v s).inputs = s.inputs := rfl
@[simp] theorem accept_trace (v : Word) (s : State) : (accept v s).trace = s.trace := rfl
@[simp] theorem accept_resets (v : Word) (s : State) : (accept v s).resets = s.resets := rfl
@[simp] theorem accept_busyReads (v : Word) (s : State) : (accept v s).busyReads = s.busyReads := rfl
@[simp] theorem accept_issued (v : Word) (s : State) : (accept v s).issued = s.issued + 1 := rfl

/-! A host write to STATUS (R20). -/

@[simp] theorem writeStatus_cmd (v : Word) (s : State) : (writeStatus v s).cmd = s.cmd := rfl
@[simp] theorem writeStatus_pending (v : Word) (s : State) : (writeStatus v s).pending = s.pending := rfl
@[simp] theorem writeStatus_keyv (v : Word) (s : State) : (writeStatus v s).keyv = s.keyv := rfl
@[simp] theorem writeStatus_bij (v : Word) (s : State) : (writeStatus v s).bij = s.bij := rfl
@[simp] theorem writeStatus_minv (v : Word) (s : State) : (writeStatus v s).minv = s.minv := rfl
@[simp] theorem writeStatus_ovr (v : Word) (s : State) : (writeStatus v s).ovr = (s.ovr && !v.getLsbD 4) := rfl
@[simp] theorem writeStatus_err (v : Word) (s : State) : (writeStatus v s).err = s.err := rfl
@[simp] theorem writeStatus_distinct (v : Word) (s : State) : (writeStatus v s).distinct = s.distinct := rfl
@[simp] theorem writeStatus_key (v : Word) (s : State) : (writeStatus v s).key = s.key := rfl
@[simp] theorem writeStatus_din (v : Word) (s : State) : (writeStatus v s).din = s.din := rfl
@[simp] theorem writeStatus_dout (v : Word) (s : State) : (writeStatus v s).dout = s.dout := rfl
@[simp] theorem writeStatus_mat0 (v : Word) (s : State) : (writeStatus v s).mat0 = s.mat0 := rfl
@[simp] theorem writeStatus_mat1 (v : Word) (s : State) : (writeStatus v s).mat1 = s.mat1 := rfl
@[simp] theorem writeStatus_gfop (v : Word) (s : State) : (writeStatus v s).gfop = s.gfop := rfl
@[simp] theorem writeStatus_gfres (v : Word) (s : State) : (writeStatus v s).gfres = s.gfres := rfl
@[simp] theorem writeStatus_sbox (v : Word) (s : State) : (writeStatus v s).sbox = s.sbox := rfl
@[simp] theorem writeStatus_invsbox (v : Word) (s : State) : (writeStatus v s).invsbox = s.invsbox := rfl
@[simp] theorem writeStatus_rk (v : Word) (s : State) : (writeStatus v s).rk = s.rk := rfl
@[simp] theorem writeStatus_inReset (v : Word) (s : State) : (writeStatus v s).inReset = s.inReset := rfl
@[simp] theorem writeStatus_inputs (v : Word) (s : State) : (writeStatus v s).inputs = s.inputs := rfl
@[simp] theorem writeStatus_trace (v : Word) (s : State) : (writeStatus v s).trace = s.trace := rfl
@[simp] theorem writeStatus_resets (v : Word) (s : State) : (writeStatus v s).resets = s.resets := rfl
@[simp] theorem writeStatus_busyReads (v : Word) (s : State) : (writeStatus v s).busyReads = s.busyReads := rfl
@[simp] theorem writeStatus_issued (v : Word) (s : State) : (writeStatus v s).issued = s.issued := rfl

/-! Noting a value the host read (R145). -/

@[simp] theorem logRead_cmd (o : Offset) (v : Word) (s : State) : (logRead o v s).cmd = s.cmd := rfl
@[simp] theorem logRead_pending (o : Offset) (v : Word) (s : State) : (logRead o v s).pending = s.pending := rfl
@[simp] theorem logRead_keyv (o : Offset) (v : Word) (s : State) : (logRead o v s).keyv = s.keyv := rfl
@[simp] theorem logRead_bij (o : Offset) (v : Word) (s : State) : (logRead o v s).bij = s.bij := rfl
@[simp] theorem logRead_minv (o : Offset) (v : Word) (s : State) : (logRead o v s).minv = s.minv := rfl
@[simp] theorem logRead_ovr (o : Offset) (v : Word) (s : State) : (logRead o v s).ovr = s.ovr := rfl
@[simp] theorem logRead_err (o : Offset) (v : Word) (s : State) : (logRead o v s).err = s.err := rfl
@[simp] theorem logRead_distinct (o : Offset) (v : Word) (s : State) : (logRead o v s).distinct = s.distinct := rfl
@[simp] theorem logRead_key (o : Offset) (v : Word) (s : State) : (logRead o v s).key = s.key := rfl
@[simp] theorem logRead_din (o : Offset) (v : Word) (s : State) : (logRead o v s).din = s.din := rfl
@[simp] theorem logRead_dout (o : Offset) (v : Word) (s : State) : (logRead o v s).dout = s.dout := rfl
@[simp] theorem logRead_mat0 (o : Offset) (v : Word) (s : State) : (logRead o v s).mat0 = s.mat0 := rfl
@[simp] theorem logRead_mat1 (o : Offset) (v : Word) (s : State) : (logRead o v s).mat1 = s.mat1 := rfl
@[simp] theorem logRead_gfop (o : Offset) (v : Word) (s : State) : (logRead o v s).gfop = s.gfop := rfl
@[simp] theorem logRead_gfres (o : Offset) (v : Word) (s : State) : (logRead o v s).gfres = s.gfres := rfl
@[simp] theorem logRead_sbox (o : Offset) (v : Word) (s : State) : (logRead o v s).sbox = s.sbox := rfl
@[simp] theorem logRead_invsbox (o : Offset) (v : Word) (s : State) : (logRead o v s).invsbox = s.invsbox := rfl
@[simp] theorem logRead_rk (o : Offset) (v : Word) (s : State) : (logRead o v s).rk = s.rk := rfl
@[simp] theorem logRead_inReset (o : Offset) (v : Word) (s : State) : (logRead o v s).inReset = s.inReset := rfl
@[simp] theorem logRead_inputs (o : Offset) (v : Word) (s : State) : (logRead o v s).inputs = s.inputs := rfl
@[simp] theorem logRead_trace (o : Offset) (v : Word) (s : State) : (logRead o v s).trace = ⟨o, v⟩ :: s.trace := rfl
@[simp] theorem logRead_resets (o : Offset) (v : Word) (s : State) : (logRead o v s).resets = s.resets := rfl
@[simp] theorem logRead_busyReads (o : Offset) (v : Word) (s : State) : (logRead o v s).busyReads = s.busyReads := rfl
@[simp] theorem logRead_issued (o : Offset) (v : Word) (s : State) : (logRead o v s).issued = s.issued := rfl

/-! Asserting reset (R136). -/

@[simp] theorem assertReset_cmd (s : State) : (assertReset s).cmd = s.cmd := rfl
@[simp] theorem assertReset_pending (s : State) : (assertReset s).pending = none := rfl
@[simp] theorem assertReset_keyv (s : State) : (assertReset s).keyv = s.keyv := rfl
@[simp] theorem assertReset_bij (s : State) : (assertReset s).bij = s.bij := rfl
@[simp] theorem assertReset_minv (s : State) : (assertReset s).minv = s.minv := rfl
@[simp] theorem assertReset_ovr (s : State) : (assertReset s).ovr = s.ovr := rfl
@[simp] theorem assertReset_err (s : State) : (assertReset s).err = s.err := rfl
@[simp] theorem assertReset_distinct (s : State) : (assertReset s).distinct = s.distinct := rfl
@[simp] theorem assertReset_key (s : State) : (assertReset s).key = s.key := rfl
@[simp] theorem assertReset_din (s : State) : (assertReset s).din = s.din := rfl
@[simp] theorem assertReset_dout (s : State) : (assertReset s).dout = s.dout := rfl
@[simp] theorem assertReset_mat0 (s : State) : (assertReset s).mat0 = s.mat0 := rfl
@[simp] theorem assertReset_mat1 (s : State) : (assertReset s).mat1 = s.mat1 := rfl
@[simp] theorem assertReset_gfop (s : State) : (assertReset s).gfop = s.gfop := rfl
@[simp] theorem assertReset_gfres (s : State) : (assertReset s).gfres = s.gfres := rfl
@[simp] theorem assertReset_sbox (s : State) : (assertReset s).sbox = s.sbox := rfl
@[simp] theorem assertReset_invsbox (s : State) : (assertReset s).invsbox = s.invsbox := rfl
@[simp] theorem assertReset_rk (s : State) : (assertReset s).rk = s.rk := rfl
@[simp] theorem assertReset_inReset (s : State) : (assertReset s).inReset = true := rfl
@[simp] theorem assertReset_inputs (s : State) : (assertReset s).inputs = s.inputs := rfl
@[simp] theorem assertReset_trace (s : State) : (assertReset s).trace = s.trace := rfl
@[simp] theorem assertReset_resets (s : State) : (assertReset s).resets = s.resets := rfl
@[simp] theorem assertReset_busyReads (s : State) : (assertReset s).busyReads = s.busyReads := rfl
@[simp] theorem assertReset_issued (s : State) : (assertReset s).issued = s.issued := rfl

/-! Staging a command (log entry 4). -/

@[simp] theorem stageCommand_cmd (w : Word) (s : State) : (stageCommand w s).cmd = w := rfl
@[simp] theorem stageCommand_pending (w : Word) (s : State) : (stageCommand w s).pending = some ⟨w, 0⟩ := rfl
@[simp] theorem stageCommand_keyv (w : Word) (s : State) : (stageCommand w s).keyv = s.keyv := rfl
@[simp] theorem stageCommand_bij (w : Word) (s : State) : (stageCommand w s).bij = s.bij := rfl
@[simp] theorem stageCommand_minv (w : Word) (s : State) : (stageCommand w s).minv = s.minv := rfl
@[simp] theorem stageCommand_ovr (w : Word) (s : State) : (stageCommand w s).ovr = s.ovr := rfl
@[simp] theorem stageCommand_err (w : Word) (s : State) : (stageCommand w s).err = s.err := rfl
@[simp] theorem stageCommand_distinct (w : Word) (s : State) : (stageCommand w s).distinct = s.distinct := rfl
@[simp] theorem stageCommand_key (w : Word) (s : State) : (stageCommand w s).key = s.key := rfl
@[simp] theorem stageCommand_din (w : Word) (s : State) : (stageCommand w s).din = s.din := rfl
@[simp] theorem stageCommand_dout (w : Word) (s : State) : (stageCommand w s).dout = s.dout := rfl
@[simp] theorem stageCommand_mat0 (w : Word) (s : State) : (stageCommand w s).mat0 = s.mat0 := rfl
@[simp] theorem stageCommand_mat1 (w : Word) (s : State) : (stageCommand w s).mat1 = s.mat1 := rfl
@[simp] theorem stageCommand_gfop (w : Word) (s : State) : (stageCommand w s).gfop = s.gfop := rfl
@[simp] theorem stageCommand_gfres (w : Word) (s : State) : (stageCommand w s).gfres = s.gfres := rfl
@[simp] theorem stageCommand_sbox (w : Word) (s : State) : (stageCommand w s).sbox = s.sbox := rfl
@[simp] theorem stageCommand_invsbox (w : Word) (s : State) : (stageCommand w s).invsbox = s.invsbox := rfl
@[simp] theorem stageCommand_rk (w : Word) (s : State) : (stageCommand w s).rk = s.rk := rfl
@[simp] theorem stageCommand_inReset (w : Word) (s : State) : (stageCommand w s).inReset = false := rfl
@[simp] theorem stageCommand_inputs (w : Word) (s : State) : (stageCommand w s).inputs = dropResets s.inputs := rfl
@[simp] theorem stageCommand_trace (w : Word) (s : State) : (stageCommand w s).trace = s.trace := rfl
@[simp] theorem stageCommand_resets (w : Word) (s : State) : (stageCommand w s).resets = s.resets := rfl
@[simp] theorem stageCommand_busyReads (w : Word) (s : State) : (stageCommand w s).busyReads = s.busyReads := rfl
@[simp] theorem stageCommand_issued (w : Word) (s : State) : (stageCommand w s).issued = s.issued := rfl

end Sys2Proof.Machine
end

