-- ==== Sys2Proof/Laws/Bus.lean ====
section
/-! SUPPORT. The register map both ways, what the block answers, and which move a step is. -/

namespace Sys2Proof.Machine

@[simp] theorem regAt_offsetOf (r : Reg) : regAt (offsetOf r) = some r := by
  cases r with
  | key j => revert j; decide
  | din j => revert j; decide
  | dout j => revert j; decide
  | sbox k => revert k; decide +kernel
  | invsbox k => revert k; decide +kernel
  | rk k => revert k; decide +kernel
  | id => decide
  | cmd => decide
  | status => decide
  | mat0 => decide
  | mat1 => decide
  | gfop => decide
  | gfres => decide

@[simp] theorem offsetOf_aligned (r : Reg) : (offsetOf r).toNat % 4 = 0 := by
  have h := regAt_offsetOf r
  by_contra hne
  rw [regAt, if_pos hne] at h
  exact absurd h (by simp)

/-- The map is one to one: the register at an offset has that offset. -/
theorem offsetOf_of_regAt {off : Offset} {r : Reg} (h : regAt off = some r) : offsetOf r = off := by
  have key : ∀ i : Fin 1024, ∀ r, regAt (BitVec.ofFin i) = some r → offsetOf r = BitVec.ofFin i := by
    have h2 : ∀ i : Fin 1024, ((regAt (BitVec.ofFin i)).all fun r => decide (offsetOf r = BitVec.ofFin i)) = true := by
      decide +kernel
    intro i r hr
    have := h2 i
    rw [hr] at this
    simpa using this
  exact key off.toFin r h

/-- A 32-bit write of a register is served (R41, R47, R49). -/
@[simp] theorem serve_write32 (r : Reg) (v : Word) (s : State) :
    serve (write32 (offsetOf r) v) s = (.written, busWrite r v s) := by
  simp [serve, write32, Access.legal, Access.off]

/-- A 32-bit read of a register is served (R41, R50). -/
@[simp] theorem serve_read32 (r : Reg) (s : State) :
    serve (read32 (offsetOf r)) s = (.readData (busRead r s).1, (busRead r s).2) := by
  simp [serve, read32, Access.legal, Access.off]

/-- What a write can do: it is dropped and sets OVR, or has its listed effect (R47, R49). -/
theorem busWrite_cases (r : Reg) (v : Word) (s : State) :
    (s.busy = true ∧ busWrite r v s = { s with ovr := true }) ∨
    (s.busy = false ∧ busWrite r v s = writeReg r v s) := by
  cases h : s.busy <;> simp [busWrite, h]

/-- What a read can do to the state: nothing, or count a draw (R46, R50). -/
theorem busRead_state (r : Reg) (s : State) :
    (busRead r s).2 = s ∨ (busRead r s).2 = { s with busyReads := s.busyReads + 1 } := by
  unfold busRead
  split
  · exact .inr rfl
  · exact .inl rfl

/-- Everything an access can do: a bus error that changes nothing, a read, or a write of a register (R40 to R50). -/
theorem serve_cases (a : Access) (s : State) :
    serve a s = (.busError, s) ∨
    (∃ r, regAt a.off = some r ∧ serve a s = (.readData (busRead r s).1, (busRead r s).2)) ∨
    (∃ r v, a = write32 (offsetOf r) v ∧ serve a s = (.written, busWrite r v s)) := by
  cases hl : a.legal with
  | false => exact .inl (by simp [serve, hl])
  | true =>
    cases hr : regAt a.off with
    | none => exact .inl (by simp [serve, hl, hr])
    | some r =>
      cases a with
      | read off size => exact .inr (.inl ⟨r, rfl, by simp [serve, hl, hr]⟩)
      | write off size strobes v =>
        refine .inr (.inr ⟨r, v, ?_, by simp [serve, hl, hr]⟩)
        have ho := offsetOf_of_regAt hr
        simp only [Access.off] at ho
        simp [Access.legal] at hl
        simp [write32, ho, hl]

/-! Which move a step is. -/

/-- Reset comes first (R129). -/
theorem machineMove_reset (s : State) (rest : List Input) (h : s.inputs = .assertReset :: rest) :
    machineMove s = .next (assertReset { s with inputs := rest }) := by
  simp [machineMove, resetNext, hostMove, h]

theorem resetNext_eq_false {s : State} (h : s.inputs.head? ≠ some .assertReset) : resetNext s = false := by
  unfold resetNext
  split
  · next heq => simp [heq] at h
  · rfl

/-- While a pending command waits, the host moves (R52, R63). -/
theorem machineMove_waiting (s : State) (w : Word) (k : Nat) (h : s.inputs.head? ≠ some .assertReset)
    (hr : s.inReset = false) (hp : s.pending = some ⟨w, k + 1⟩) :
    machineMove s = hostMove { s with pending := some ⟨w, k⟩ } := by
  simp [machineMove, resetNext_eq_false h, hr, hp]

/-- While nothing is pending, the host moves (R52). -/
theorem machineMove_idle (s : State) (hr : s.inReset = false) (hp : s.pending = none) :
    machineMove s = hostMove s := by
  by_cases h : resetNext s = true <;> simp [machineMove, h, hr, hp]

/-! What a host accepts as a table entry (R118). -/

theorem entryOf_isSome (n : Int) : (entryOf (.integer n)).isSome = true ↔ 0 ≤ n ∧ n ≤ 255 := by
  simp [entryOf]

@[simp] theorem entryOf_notInteger : entryOf .notInteger = none := rfl

@[simp] theorem entryOf_byte (b : Byte) : entryOf (.integer b.toNat) = some b := by
  have := b.isLt
  simp [entryOf]
  omega

end Sys2Proof.Machine
end

