-- ==== Sys2Proof/Laws/Flags.lean ====
section
/-! SUPPORT. The set of a table's values, and its count. -/

namespace Sys2Proof.Machine

theorem valueSet_fold_getLsbD (l : List Byte) (acc : BitVec 256) (v : Byte) :
    (l.foldl (fun acc x => acc ||| (1#256 <<< x.toNat)) acc).getLsbD v.toNat = true ↔
      acc.getLsbD v.toNat = true ∨ v ∈ l := by
  induction l generalizing acc with
  | nil => simp
  | cons x l ih =>
    rw [List.foldl_cons, ih, List.mem_cons, ← or_assoc]
    have hv : v.toNat < 256 := v.isLt
    have hx : (1#256 <<< x.toNat).getLsbD v.toNat = true ↔ v = x := by
      simp only [BitVec.getLsbD_shiftLeft, hv, decide_true, Bool.true_and, BitVec.getLsbD_one]
      constructor
      · intro h
        simp at h
        exact BitVec.eq_of_toNat_eq (by omega)
      · rintro rfl
        simp
    simp only [BitVec.getLsbD_or, Bool.or_eq_true, hx]

/-- Bit `v` of a table's value set: whether some entry is `v` (R23). -/
theorem valueSet_getLsbD (t : Table) (v : Byte) :
    (valueSet t).getLsbD v.toNat = true ↔ ∃ x : Byte, lookup t x = v := by
  rw [valueSet, valueSet_fold_getLsbD]
  simp only [BitVec.getLsbD_zero, Bool.false_eq_true, false_or]
  rw [Vector.mem_toList_iff, Vector.mem_iff_getElem]
  constructor
  · rintro ⟨i, hi, rfl⟩
    exact ⟨BitVec.ofFin ⟨i, hi⟩, rfl⟩
  · rintro ⟨x, rfl⟩
    exact ⟨x.toNat, x.isLt, rfl⟩

/-- A count of 1 bits is at most the width (R9). -/
theorem popcount_le {w : Nat} (v : BitVec w) : popcount v ≤ w := by
  have := List.length_filter_le v.getLsbD (List.range w)
  simpa [popcount] using this

/-- DISTINCT fits its field: 0..256 (R20). -/
theorem distinctField_toNat (t : Table) : (distinctField t).toNat = distinctCount t := by
  have : distinctCount t ≤ 256 := popcount_le (valueSet t)
  simp only [distinctField, BitVec.toNat_ofNat]
  omega

end Sys2Proof.Machine
end

