-- ==== Sys2Proof/Laws/Lanes.lean ====
section
/-! SUPPORT. Reading what tabulating, packing and table-word writes put where. -/

namespace Sys2Proof.Machine

@[simp] theorem getElem_tabulate {α : Type} {n : Nat} (f : Fin n → α) (i : Nat) (h : i < n) :
    (tabulate f)[i] = f ⟨i, h⟩ := by
  simp [tabulate]

/-- A vector is the tabulation of its own entries. -/
theorem tabulate_getElem {α : Type} {n : Nat} (v : Vector α n) : (tabulate fun i => v[i]) = v := by
  ext i h
  simp

/-- Bit `k` of a packed register is bit `k mod 8` of lane `k div 8` (R43). -/
theorem lane_getLsbD (w : Word) (j : Fin 4) (k : Nat) (h : k < 8) :
    (lane w j).getLsbD k = w.getLsbD (8 * j.val + k) := by
  simp [lane, h]

@[simp] theorem lane_packLanes (b : Fin 4 → Byte) (j : Fin 4) : lane (packLanes b) j = b j := by
  apply BitVec.eq_of_getLsbD_eq
  intro k hk
  rw [lane_getLsbD _ _ _ hk]
  fin_cases j <;> interval_cases k <;> simp [packLanes]

/-- Two registers with the same four lanes are the same. -/
theorem word_ext_lanes {v w : Word} (h : ∀ j, lane v j = lane w j) : v = w := by
  apply BitVec.eq_of_getLsbD_eq
  intro k hk
  have hj : k / 8 < 4 := by omega
  have := congrArg (fun x => BitVec.getLsbD x (k % 8)) (h ⟨k / 8, hj⟩)
  simp only [lane_getLsbD _ _ _ (Nat.mod_lt k (by decide : 8 > 0))] at this
  simpa [Nat.div_add_mod] using this

@[simp] theorem packLanes_lane (w : Word) : (packLanes fun j => lane w j) = w :=
  word_ext_lanes fun j => by simp

@[simp] theorem lane_word4_zero (a b c d : Byte) : lane (word4 a b c d) 0 = a := by simp [word4]
@[simp] theorem lane_word4_one (a b c d : Byte) : lane (word4 a b c d) 1 = b := by simp [word4]
@[simp] theorem lane_word4_two (a b c d : Byte) : lane (word4 a b c d) 2 = c := by simp [word4]
@[simp] theorem lane_word4_three (a b c d : Byte) : lane (word4 a b c d) 3 = d := by simp [word4]

@[simp] theorem lane_xor (v w : Word) (j : Fin 4) : lane (v ^^^ w) j = lane v j ^^^ lane w j := by
  apply BitVec.eq_of_getLsbD_eq
  intro k hk
  simp [lane_getLsbD _ _ _ hk]

/-- Byte `k` of the block four registers hold (R28, R29, R30). -/
theorem getElem_blockOfWords (ws : Vector Word 4) (k : Nat) (h : k < 16) :
    (blockOfWords ws)[k] = lane (ws[k / 4]'(by omega)) ⟨k % 4, by omega⟩ := by
  simp [blockOfWords]

/-- Lane `b` of register `j` of a block (R28, R29, R30). -/
theorem lane_wordsOfBlock (b : Block) (j : Nat) (h : j < 4) (k : Fin 4) :
    lane (wordsOfBlock b)[j] k = b[4 * j + k.val] := by
  simp [wordsOfBlock]

@[simp] theorem blockOfWords_wordsOfBlock (b : Block) : blockOfWords (wordsOfBlock b) = b := by
  ext k h
  simp [getElem_blockOfWords, lane_wordsOfBlock, Nat.div_add_mod]

@[simp] theorem wordsOfBlock_blockOfWords (ws : Vector Word 4) : wordsOfBlock (blockOfWords ws) = ws := by
  ext1 j h
  apply word_ext_lanes
  intro k
  rw [lane_wordsOfBlock _ _ h, getElem_blockOfWords]
  congr 1
  · congr 1
    omega
  · apply Fin.ext
    simp only
    omega

/-- Lane `b` of a table's window word (R34, R35). -/
theorem lane_tableWord (t : Table) (k : Fin 64) (b : Fin 4) : lane (tableWord t k) b = t[4 * k.val + b.val] := by
  simp [tableWord]

/-- Every entry after a window word is written (R47). -/
theorem getElem_setTableWord (t : Table) (k : Fin 64) (v : Word) (i : Nat) (h : i < 256) :
    (setTableWord t k v)[i] = if i / 4 = k.val then lane v ⟨i % 4, by omega⟩ else t[i] := by
  simp only [setTableWord, Vector.getElem_set]
  by_cases hk : i / 4 = k.val
  · rw [if_pos hk]
    have : i % 4 = 0 ∨ i % 4 = 1 ∨ i % 4 = 2 ∨ i % 4 = 3 := by omega
    rcases this with h0 | h0 | h0 | h0 <;> (repeat rw [if_neg (by omega)]) <;> rw [if_pos (by omega)] <;> congr 1 <;>
      exact Fin.ext h0.symm
  · rw [if_neg hk]
    repeat rw [if_neg (by omega)]

end Sys2Proof.Machine
end

