-- ==== Sys2Proof/Laws/Gf.lean ====
section
/-! SUPPORT. First facts of the field product, the inverse table and the affine map. -/

namespace Sys2Proof.Machine

/-- xtime is linear (R69, R70). -/
theorem xtime_xor (a b : Byte) : xtime (a ^^^ b) = xtime a ^^^ xtime b := by
  have hs : (a ^^^ b) <<< 1 = (a <<< 1) ^^^ (b <<< 1) := BitVec.shiftLeft_xor_distrib a b 1
  simp only [xtime, hs, BitVec.getLsbD_xor]
  have hr : ∀ u v k : Byte, u ^^^ k ^^^ (v ^^^ k) = u ^^^ v := by
    intro u v k
    rw [show u ^^^ k ^^^ (v ^^^ k) = u ^^^ v ^^^ (k ^^^ k) by ac_rfl]
    simp
  cases a.getLsbD 7 <;> cases b.getLsbD 7 <;> simp [hr] <;> ac_rfl

/-- The loop of R71 on its own: started from a sum of two states it gives the sum of the two results. -/
theorem gmul_fold_xor (b : Byte) (l : List Nat) (p q t u : Byte) :
    l.foldl (gmulStep b) (p ^^^ q, t ^^^ u) =
      ((l.foldl (gmulStep b) (p, t)).1 ^^^ (l.foldl (gmulStep b) (q, u)).1,
        (l.foldl (gmulStep b) (p, t)).2 ^^^ (l.foldl (gmulStep b) (q, u)).2) := by
  induction l generalizing p q t u with
  | nil => rfl
  | cons i l ih =>
    simp only [List.foldl_cons, gmulStep, xtime_xor]
    by_cases hb : b.getLsbD i
    · simp only [hb, if_true]
      rw [show p ^^^ q ^^^ (t ^^^ u) = p ^^^ t ^^^ (q ^^^ u) by ac_rfl]
      exact ih _ _ _ _
    · simp only [hb]
      exact ih _ _ _ _

/-- The product is additive in its first factor (R69, R71). -/
theorem gmul_xor_left (a c b : Byte) : gmul (a ^^^ c) b = gmul a b ^^^ gmul c b := by
  have := gmul_fold_xor b (List.range 8) 0 0 a c
  rw [BitVec.xor_self] at this
  exact congrArg Prod.fst this

/-- Every entry of the inverse table but the first times its index is 1: the table the model uses has the property R73
defines it by. -/
theorem gmul_ginv (a : Byte) (h : a ≠ 0) : gmul a (ginv a) = 1 := by
  have key : ∀ i : Fin 256, BitVec.ofFin i ≠ (0 : Byte) → gmul (BitVec.ofFin i) (ginv (BitVec.ofFin i)) = 1 := by
    decide +kernel
  exact key a.toFin h

/-- The bits of the affine image (R75). -/
theorem affine_getLsbD (m : AffineMatrix) (y : Byte) (r : Nat) (h : r < 8) :
    (affine m y).getLsbD r =
      (xorBits (fun c => matEntry m ⟨r, h⟩ c && y.getLsbD c.val) ^^ (0x63 : Byte).getLsbD r) := by
  simp [affine, h]

/-- Bit `c` of row `r` is `M[r][c]` (R31). -/
theorem matRow_getLsbD (m : AffineMatrix) (r c : Fin 8) : (matRow m r).getLsbD c.val = matEntry m r c := by
  simp [matRow, matEntry]

end Sys2Proof.Machine
end

