-- ==== Sys2Proof/Laws/Ops.lean ====
section
/-! SUPPORT. What each shared operation can do, said once, and what a performed command can write. -/

namespace Sys2Proof.Machine

/-- A command that needs the key either goes on or reports NO_KEY (R109, R112, R113). -/
theorem requireKey_cases (k : State → State) (s : State) :
    (s.keyv = true ∧ requireKey k s = k s) ∨ (s.keyv = false ∧ requireKey k s = raiseErr .noKey s) := by
  cases h : s.keyv <;> simp [requireKey, h]

/-- A single transform writes DOUT and completes (R103 to R109). -/
theorem transformDin_eq (f : Grid → Grid) (s : State) :
    transformDin f s =
      { s with dout := wordsOfBlock (store (f (load (blockOfWords s.din)))), err := .none, pending := none } := rfl

/-- Everything a command can do: it completes with some code a state that differs from `s` at most in the fields R60 lists
as written. -/
theorem exec_writes (i : Instr) (s : State) :
    ∃ c t, exec i s = .next (complete c t) ∧
      t = { s with keyv := t.keyv, bij := t.bij, minv := t.minv, distinct := t.distinct, dout := t.dout,
                   gfres := t.gfres, sbox := t.sbox, invsbox := t.invsbox, rk := t.rk } := by
  cases i with
  | keyexp =>
    simp only [exec, execKeyexp]
    split
    · exact ⟨_, _, rfl, rfl⟩
    · exact ⟨_, _, rfl, rfl⟩
  | encrypt =>
    simp only [exec, execEncrypt, requireKey]
    split
    · exact ⟨_, _, rfl, rfl⟩
    · exact ⟨_, _, rfl, rfl⟩
  | decrypt =>
    simp only [exec, execDecrypt, requireKey]
    split
    · exact ⟨_, _, rfl, rfl⟩
    · exact ⟨_, _, rfl, rfl⟩
  | addroundkey n =>
    simp only [exec, execAddroundkey, requireKey]
    split
    · split
      · exact ⟨_, _, rfl, rfl⟩
      · exact ⟨_, _, rfl, rfl⟩
    · exact ⟨_, _, rfl, rfl⟩
  | nop => exact ⟨_, _, rfl, rfl⟩
  | construct => exact ⟨_, _, rfl, rfl⟩
  | detpar => exact ⟨_, _, rfl, rfl⟩
  | validate => exact ⟨_, _, rfl, rfl⟩
  | invert =>
    simp only [exec, execInvert]
    generalize invertTable s.sbox = u
    exact ⟨_, _, rfl, rfl⟩
  | subbytes => exact ⟨_, _, rfl, rfl⟩
  | invsubbytes => exact ⟨_, _, rfl, rfl⟩
  | shiftrows => exact ⟨_, _, rfl, rfl⟩
  | invshiftrows => exact ⟨_, _, rfl, rfl⟩
  | mixcolumns => exact ⟨_, _, rfl, rfl⟩
  | invmixcolumns => exact ⟨_, _, rfl, rfl⟩
  | gfinv => exact ⟨_, _, rfl, rfl⟩
  | gfmul => exact ⟨_, _, rfl, rfl⟩
  | affine => exact ⟨_, _, rfl, rfl⟩
  | affinv => exact ⟨_, _, rfl, rfl⟩

end Sys2Proof.Machine
end

