-- ==== Sys2Proof/Laws/PerInstr.lean ====
section
/-! SUPPORT. Statements made once per command: its encoded word has the fields the opcode map gives it. -/

namespace Sys2Proof.Laws.EncodesFields

/-- The word of a command has its OP, its ARG and RSV = 0 (R57, R59). -/
def Statement (i : Instr) : Prop :=
  opField (encode i) = opcodeOf i ∧ argField (encode i) = argOf i ∧ rsvField (encode i) = 0

/-- The three fields of a word put together from fields are those fields (R57). -/
theorem of_fields (i : Instr) : Statement i := by
  refine ⟨?_, ?_, ?_⟩ <;> apply BitVec.eq_of_getLsbD_eq <;> intro k hk
  · interval_cases k <;> simp [opField, encode]
  · interval_cases k <;> simp [argField, encode]
  · interval_cases k <;> simp [rsvField, encode]

theorem nop : Statement .nop := of_fields _
theorem construct : Statement .construct := of_fields _
theorem detpar : Statement .detpar := of_fields _
theorem validate : Statement .validate := of_fields _
theorem invert : Statement .invert := of_fields _
theorem keyexp : Statement .keyexp := of_fields _
theorem encrypt : Statement .encrypt := of_fields _
theorem decrypt : Statement .decrypt := of_fields _
theorem subbytes : Statement .subbytes := of_fields _
theorem invsubbytes : Statement .invsubbytes := of_fields _
theorem shiftrows : Statement .shiftrows := of_fields _
theorem invshiftrows : Statement .invshiftrows := of_fields _
theorem mixcolumns : Statement .mixcolumns := of_fields _
theorem invmixcolumns : Statement .invmixcolumns := of_fields _
theorem addroundkey (n : BitVec 8) : Statement (.addroundkey n) := of_fields _
theorem gfinv : Statement .gfinv := of_fields _
theorem gfmul : Statement .gfmul := of_fields _
theorem affine : Statement .affine := of_fields _
theorem affinv : Statement .affinv := of_fields _

end Sys2Proof.Laws.EncodesFields
end

