-- ==== Sys2Proof/Tests/Slice0.lean ====
section
/-! SUPPORT. Small tests, each expected result from the spec's text or its vectors (95_test_vectors.md V<n>), and a witness for
the hypotheses of each statement that has some. -/

namespace Sys2Proof.Machine.Tests

/-! ### Helpers -/

/-- The identity table. -/
def idTable : Table := tabulate fun i => BitVec.ofFin i

theorem lookup_idTable (x : Byte) : lookup idTable x = x := by
  simp [lookup, idTable]

theorem idTable_permutation : Permutation idTable := fun x y h => by simpa [lookup_idTable] using h

theorem idTable_inverse : InverseTables idTable idTable :=
  ⟨fun x => by simp [lookup_idTable], fun x => by simp [lookup_idTable]⟩

/-- After reset, with identity tables and a schedule marked valid. -/
def ready : State := { State.reset with sbox := idTable, invsbox := idTable, keyv := true }

theorem ready_idle : Idle ready := ⟨rfl, rfl⟩

/-- The AES matrix of R77. -/
def aes : State := { State.reset with mat0 := 0x8FC7E3F1, mat1 := 0xF87C3E1F }

/-- A field of the state a command leaves, or a default where it stops. -/
def after {α : Type} (i : Instr) (s : State) (f : State → α) (dflt : α) : α :=
  match exec i s with
  | .next t => f t
  | .fault _ => dflt
  | .refused _ => dflt

/-- DOUT after a command on an input block. -/
def doutOf (i : Instr) (s : State) (din : Vector Word 4) : Vector Word 4 :=
  after i { s with din := din } (·.dout) #v[0, 0, 0, 0]

/-- The code a word leaves in ERR. -/
def codeOf (w : Word) (s : State) : Nat :=
  match perform w s with
  | .next t => t.err.code.toNat
  | .fault _ => 16
  | .refused _ => 17

/-- Whether two results of decoding name the same command. -/
def decodesTo (w : Word) (i : Instr) : Bool :=
  match decodeWord w with
  | .ok j => j = i
  | .error _ => false

/-! ### Well-formedness, decoding and encoding (R57, R59, R61) -/

theorem test_round_16_is_ill_formed : (Instr.addroundkey 16).wellFormed = false := by decide
theorem test_round_15_is_well_formed : (Instr.addroundkey 15).wellFormed = true := by decide

theorem test_decode_system : decodesTo 0b00000000000000000000000000000000 .nop = true := by decide
theorem test_decode_construct : decodesTo 0b00000000000000000000000000000001 .construct = true := by decide
theorem test_decode_detpar : decodesTo 0b00000000000000000000000000000010 .detpar = true := by decide
theorem test_decode_validate : decodesTo 0b00000000000000000000000000000011 .validate = true := by decide
theorem test_decode_invert : decodesTo 0b00000000000000000000000000000100 .invert = true := by decide
theorem test_decode_keyexp : decodesTo 0b00000000000000000000000000010000 .keyexp = true := by decide
theorem test_decode_encrypt : decodesTo 0b00000000000000000000000000010001 .encrypt = true := by decide
theorem test_decode_decrypt : decodesTo 0b00000000000000000000000000010010 .decrypt = true := by decide
theorem test_decode_subbytes : decodesTo 0b00000000000000000000000000100000 .subbytes = true := by decide
theorem test_decode_invsubbytes : decodesTo 0b00000000000000000000000000100001 .invsubbytes = true := by decide
theorem test_decode_shiftrows : decodesTo 0b00000000000000000000000000100010 .shiftrows = true := by decide
theorem test_decode_invshiftrows : decodesTo 0b00000000000000000000000000100011 .invshiftrows = true := by decide
theorem test_decode_mixcolumns : decodesTo 0b00000000000000000000000000100100 .mixcolumns = true := by decide
theorem test_decode_invmixcolumns : decodesTo 0b00000000000000000000000000100101 .invmixcolumns = true := by decide
theorem test_decode_addroundkey : decodesTo 0b00000000000000000000101000100110 (.addroundkey 10) = true := by decide
theorem test_decode_gfinv : decodesTo 0b00000000000000000000000000110000 .gfinv = true := by decide
theorem test_decode_gfmul : decodesTo 0b00000000000000000000000000110001 .gfmul = true := by decide
theorem test_decode_affine : decodesTo 0b00000000000000000000000000110010 .affine = true := by decide
theorem test_decode_affinv : decodesTo 0b00000000000000000000000000110011 .affinv = true := by decide

theorem test_encode_addroundkey : encode (.addroundkey 10) = 0x00000A26 := by decide
theorem test_decode_table_word : decodeTableWord 32 0x126 = some (.addroundkey 1) := by decide

/-- V10: NOP, then the illegal words. -/
theorem test_illegal_words :
    [0x0, 0x100, 0x1000, 0x5, 0xF, 0x13, 0x1F, 0x27, 0x2F, 0x34, 0xFF].map (codeOf · State.reset) =
      [0, 4, 4, 4, 4, 4, 4, 4, 4, 4, 4] := by decide

/-- V10: the order of checks. -/
theorem test_check_order :
    codeOf 0x111 ready = 4 ∧ codeOf 0xC26 State.reset = 5 ∧ codeOf 0xB26 ready = 5 ∧ codeOf 0xA26 ready = 0 ∧
      codeOf 0x326 State.reset = 3 := by decide

/-! ### GF(2^8) and the affine map: V5 -/

theorem test_xtime : xtime 0x57 = 0xAE ∧ xtime 0x80 = 0x1B ∧ xtime 0xFF = 0xE5 := by decide
theorem test_gfinv : after .gfinv { State.reset with gfop := 0xFF53 } (readReg .gfres) 1 = 0xCA := by decide
theorem test_gfinv_zero : after .gfinv State.reset (readReg .gfres) 1 = 0 := by decide
theorem test_gfmul : after .gfmul { State.reset with gfop := 0x8357 } (readReg .gfres) 0 = 0xC1 := by decide +kernel
theorem test_gfmul_reduces : after .gfmul { State.reset with gfop := 0x0280 } (readReg .gfres) 0 = 0x1B := by
  decide +kernel
theorem test_affine : after .affine { aes with gfop := 0x53 } (readReg .gfres) 0 = 0x74 := by decide +kernel
theorem test_affinv : after .affinv { aes with gfop := 0x53 } (readReg .gfres) 0 = 0xED := by decide +kernel

/-! ### The S-box unit: V3, V4 -/

theorem test_construct : after .construct aes (fun t => tableWord t.sbox 20) 0 = 0xED00D153 := by decide +kernel
theorem test_construct_zero_matrix :
    after .construct State.reset (fun t => statusWord t) 0 = 0x00010100 := by decide +kernel
theorem test_detpar : after .detpar aes (fun t => statusWord t) 0 = 0x00000008 := by decide +kernel
theorem test_detpar_rank_7 :
    after .detpar { aes with mat1 := 0xF17C3E1F } (fun t => statusWord t) 0 = 0x00000100 := by decide +kernel
theorem test_validate : after .validate ready (fun t => statusWord t) 0 = 0x01000006 := by decide +kernel
theorem test_validate_constant :
    after .validate { State.reset with sbox := tabulate fun _ => 0x63 } (fun t => statusWord t) 0 = 0x00010200 := by
  decide +kernel
/-- R87: for SBOX all 0x63, INVSBOX[0x63] = 0xFF and every other entry is 0x00. -/
theorem test_invert_last_write_wins :
    after .invert { State.reset with sbox := tabulate fun _ => 0x63 }
      (fun t => (lookup t.invsbox 0x63, lookup t.invsbox 0x62)) (0, 1) = (0xFF, 0x00) := by decide +kernel
theorem test_invert : after .invert { State.reset with sbox := tabulate fun i => BitVec.ofFin i ^^^ 0x0F }
    (fun t => lookup t.invsbox 0x13) 0 = 0x1C := by decide +kernel

/-! ### The key schedule and the cipher: V6, V7, V8 -/

/-- V6: word 4 of the expansion of `2b7e…4f3c` through the AES S-box. -/
theorem test_key_expansion :
    (keyExpansion #v[0x16157E2B, 0xA6D2AE28, 0x8815F7AB, 0x3C4FCF09] (constructTable (matrixOf aes)))[4] = 0x17FEFAA0 := by
  decide +kernel
theorem test_keyexp_sets_keyv : after .keyexp { ready with keyv := false } (fun t => statusWord t) 0 = 0x01000006 := by
  decide +kernel
theorem test_keyexp_refuses_constant :
    after .keyexp { ready with sbox := tabulate fun _ => 0x63 } (fun t => statusWord t) 0 = 0x00010200 := by decide +kernel
/-- V7, FIPS-197 C.1. -/
theorem test_encrypt :
    (wordsOfBlock (cipher (blockOfWords #v[0x33221100, 0x77665544, 0xBBAA9988, 0xFFEEDDCC])
      (keyExpansion #v[0x03020100, 0x07060504, 0x0B0A0908, 0x0F0E0D0C] (constructTable (matrixOf aes)))
      (constructTable (matrixOf aes))))[3] = 0x5AC5B470 := by decide +kernel
theorem test_encrypt_without_key : codeOf 0x11 State.reset = 3 := by decide
/-- V7: the C.1 row backwards; the table words of the AES inverse are found by searching SBOX. -/
theorem test_decrypt :
    (wordsOfBlock (invCipher (blockOfWords #v[0xD8E0C469, 0x30047B6A, 0x80B7CDD8, 0x5AC5B470])
      (keyExpansion #v[0x03020100, 0x07060504, 0x0B0A0908, 0x0F0E0D0C] (constructTable (matrixOf aes)))
      (invertTable (constructTable (matrixOf aes)))))[0] = 0x33221100 := by decide +kernel
theorem test_decrypt_without_key : codeOf 0x12 State.reset = 3 := by decide

theorem test_subbytes :
    doutOf .subbytes { State.reset with sbox := constructTable (matrixOf aes) }
      #v[0xBEE33D19, 0x2BE2F4A0, 0x2A8DC69A, 0x0848F8E9] = #v[0xAE1127D4, 0xF198BFE0, 0xE55DB4B8, 0x3052411E] := by
  decide +kernel
theorem test_invsubbytes :
    doutOf .invsubbytes { State.reset with invsbox := constructTable (matrixOf aes) }
      #v[0xBEE33D19, 0, 0, 0x0848F8E9] = #v[0xAE1127D4, 0x63636363, 0x63636363, 0x3052411E] := by decide +kernel
theorem test_shiftrows :
    doutOf .shiftrows State.reset #v[0x03020100, 0x07060504, 0x0B0A0908, 0x0F0E0D0C] =
      #v[0x0F0A0500, 0x030E0904, 0x07020D08, 0x0B06010C] := by decide +kernel
theorem test_invshiftrows :
    doutOf .invshiftrows State.reset #v[0x03020100, 0x07060504, 0x0B0A0908, 0x0F0E0D0C] =
      #v[0x070A0D00, 0x0B0E0104, 0x0F020508, 0x0306090C] := by decide +kernel
theorem test_mixcolumns :
    doutOf .mixcolumns State.reset #v[0x305DBFD4, 0xAE52B4E0, 0xF11141B8, 0xE598271E] =
      #v[0xE5816604, 0x9A19CBE0, 0x7AD3F848, 0x4C260628] := by decide +kernel
theorem test_invmixcolumns :
    doutOf .invmixcolumns State.reset #v[0xE5816604, 0x9A19CBE0, 0x7AD3F848, 0x4C260628] =
      #v[0x305DBFD4, 0xAE52B4E0, 0xF11141B8, 0xE598271E] := by decide +kernel
/-- P4: round key 1 of `2b7e…4f3c` is words 4 to 7 of V6. -/
theorem test_addroundkey :
    doutOf (.addroundkey 1)
      { ready with rk := ((((tabulate fun _ => 0).set 4 0x17FEFAA0).set 5 0xB12C5488).set 6 0x3939A323).set 7 0x05766C2A }
      #v[0xE5816604, 0x9A19CBE0, 0x7AD3F848, 0x4C260628] = #v[0xF27F9CA4, 0x2B359F68, 0x43EA5B6B, 0x49506A02] := by
  decide +kernel

theorem test_nop_clears_err : after .nop { State.reset with err := .noKey } (fun t => t.err) .noKey = .none := by decide

/-! ### The window and the step: V11, V12 -/

theorem test_misaligned_read : serve (read32 0x011) ready = (.busError, ready) :=
  rfl
theorem test_gfop_reserved_bits : (writeReg .gfop 0xFFFF0280 State.reset).gfop = 0x0280 := by decide
theorem test_status_after_reset : statusWord State.reset = 0 := by decide
theorem test_first_step_runs_gfinv :
    step (State.reset.withFetchWord 32 0x30) = exec .gfinv (State.reset.withFetchWord 32 0x30) := rfl
theorem test_first_step_runs_keyexp :
    step (State.reset.withFetchWord 32 0x10) = exec .keyexp (State.reset.withFetchWord 32 0x10) := rfl

/-- V13: the empty buffer pads to sixteen 0x10 bytes. -/
theorem test_pad_empty : pad [] = List.replicate 16 0x10 := by decide

/-! ### Witnesses: states and operands that meet a statement's hypotheses -/

/-- A pending GFMUL with three moves to wait, and quiet inputs. -/
def waiting : State :=
  { ready with
    cmd := 0x31, pending := some ⟨0x31, 3⟩, inputs := [.idle, .wait, .access (read32 0x030), wr (.din 0) 1] }

/-- A command staged with its latency over. -/
def staged (i : Instr) : State := stageCommand (encode i) ready

/-- An idle machine with inputs. -/
def withInputs (ins : List Input) : State := { ready with inputs := ins }

/-- Reset is asserted, with inputs. -/
def inResetWith (ins : List Input) : State := { ready with inReset := true, inputs := ins }

theorem witness_illegal_word : (∃ e, decodeWord 0x111 = .error e) ∧ State.reset.busy = false := ⟨⟨_, rfl⟩, rfl⟩
theorem witness_round_out_of_range : 11 ≤ (11 : BitVec 8).toNat ∧ (15 : BitVec 8).toNat ≤ 15 := by decide
theorem witness_well_formed : WellFormed (.addroundkey 15) ∧ decodeWord 0x126 = .ok (.addroundkey 1) := ⟨by decide, rfl⟩

theorem witness_step_runs :
    (staged .gfmul).inputs.head? ≠ some .assertReset ∧ (staged .gfmul).inReset = false ∧
      (staged .gfmul).pending = some ⟨0x31, 0⟩ ∧ decodeWord 0x31 = .ok .gfmul ∧
      (∃ e, decodeWord 0xFF = .error e) ∧ decodeTableWord 32 0x31 = some .gfmul := by
  refine ⟨by decide, rfl, rfl, rfl, ⟨_, rfl⟩, by decide⟩

theorem witness_acceptance :
    (withInputs [wr .cmd 0x31]).inReset = false ∧ (withInputs [wr .cmd 0x31]).inputs = [wr .cmd 0x31] ∧
      (withInputs [wr .cmd 0x31]).pending = none ∧
      ({ waiting with inputs := [wr .cmd 0] } : State).inReset = false ∧
      ({ waiting with inputs := [wr .cmd 0] } : State).inputs = [wr .cmd 0] ∧
      ({ waiting with inputs := [wr .cmd 0] } : State).pending = some ⟨0x31, 2 + 1⟩ := ⟨rfl, rfl, rfl, rfl, rfl, rfl⟩

theorem witness_pending_waits :
    waiting.inReset = false ∧ waiting.inputs.head? ≠ some .assertReset ∧ waiting.pending = some ⟨0x31, 2 + 1⟩ ∧
      ∃ t, step waiting = .next t := ⟨rfl, by decide, rfl, ⟨_, rfl⟩⟩

theorem witness_quiet_inputs : waiting.inputs.all quietInput = true := by decide

theorem witness_exec_script :
    Idle (withInputs (execScript .gfmul ++ [])) ∧ WellFormed .gfmul ∧
      (withInputs (execScript .gfmul ++ [])).inputs = execScript .gfmul ++ [] := ⟨⟨rfl, rfl⟩, by decide, rfl⟩

theorem witness_load_script :
    Idle (withInputs (ldblk (tabulate fun _ => 7) ++ [.wait])) ∧
      (withInputs (ldblk (tabulate fun _ => 7) ++ [.wait])).inputs = ldblk (tabulate fun _ => 7) ++ [.wait] :=
  ⟨⟨rfl, rfl⟩, rfl⟩

theorem witness_invariant_step : Inv State.reset ∧ step State.reset = .next State.reset := by
  refine ⟨⟨fun h => absurd h (by decide), fun p h => absurd h (by simp [State.reset, State.afterReset]), by decide, by decide⟩, rfl⟩

/-- KEYV rises. -/
theorem witness_keyv_rises :
    ({ staged .keyexp with keyv := false } : State).keyv = false ∧
      (∃ t, step { staged .keyexp with keyv := false } = .next t ∧ t.keyv = true) := by
  have hb : bijective (staged .keyexp).sbox = true := by decide +kernel
  refine ⟨rfl, _, rfl, ?_⟩
  simp [hb]

/-- KEYV falls at a host write to KEY, and at the release of reset. -/
theorem witness_keyv_falls :
    (∃ t, step (withInputs [wr (.key 0) 0]) = .next t ∧ t.keyv = false) ∧
      (∃ t, step (inResetWith [.releaseReset]) = .next t ∧ t.keyv = false) ∧
      (∃ t, step (staged .construct) = .next t ∧ t.keyv = false) ∧ ready.keyv = true :=
  ⟨⟨_, rfl, rfl⟩, ⟨_, rfl, rfl⟩, ⟨_, rfl, rfl⟩, rfl⟩

theorem witness_ovr_rises : waiting.ovr = false ∧
    ∃ t, step { waiting with inputs := [wr (.key 0) 0] } = .next t ∧ t.ovr = true := ⟨rfl, _, rfl, rfl⟩

theorem witness_ovr_falls :
    (∃ t, step { withInputs [wr .status 0x10] with ovr := true } = .next t ∧ t.ovr = false) ∧
      (∃ t, step { inResetWith [.releaseReset] with ovr := true } = .next t ∧ t.ovr = false) ∧
      (0x10 : Word).getLsbD 4 = true := ⟨⟨_, rfl, rfl⟩, ⟨_, rfl, rfl⟩, by decide⟩

/-- One word for each of the three codes that write only ERR. -/
theorem witness_refused_commands :
    (∃ t, perform 0x11 State.reset = .next t ∧ t.err = .noKey) ∧ (∃ t, perform 0x111 ready = .next t ∧ t.err = .illegalCmd) ∧
      (∃ t, perform 0xB26 ready = .next t ∧ t.err = .illegalArg) := ⟨⟨_, rfl, rfl⟩, ⟨_, rfl, rfl⟩, ⟨_, rfl, rfl⟩⟩

theorem witness_idle_and_busy : State.reset.busy = false ∧ waiting.busy = true := ⟨rfl, rfl⟩

/-- An unmapped offset at each boundary, and a host's turn with such an access. -/
theorem witness_bus_error :
    (serve (read32 0x00C) ready).1 = .busError ∧ (serve (read32 0x0FC) waiting).1 = .busError ∧
      (serve (read32 0x3B0) ready).1 = .busError ∧ HostTurn (withInputs [.access (read32 0x3FC)]) ∧
      (withInputs [.access (read32 0x3FC)]).inputs = [.access (read32 0x3FC)] ∧
      (serve (read32 0x3FC) ready).1 = .busError :=
  ⟨rfl, rfl, rfl, ⟨rfl, fun p h => absurd h (by simp [withInputs, ready, State.reset, State.afterReset])⟩, rfl, rfl⟩

/-- A mapped offset at each side of the unmapped ones. -/
theorem witness_mapped_offsets :
    ∀ n ∈ [0x008, 0x010, 0x04C, 0x100, 0x3AC], (BitVec.ofNat 10 n).toNat % 4 = 0 ∧ ¬ Unmapped (BitVec.ofNat 10 n) := by
  unfold Unmapped
  decide

theorem witness_busy_read : (0x004 : Offset).toNat % 4 = 0 ∧ ¬ Unmapped 0x004 ∧ (0x004 : Offset) ≠ 0x000 ∧
    (0x004 : Offset) ≠ 0x008 := by
  unfold Unmapped
  decide

theorem witness_reset_inputs :
    (withInputs [.assertReset]).inputs = .assertReset :: [] ∧ (inResetWith [.access (read32 0)]).inReset = true ∧
      (inResetWith [.access (read32 0)]).inputs = .access (read32 0) :: [] ∧
      (inResetWith [.releaseReset]).inputs = .releaseReset :: [] ∧
      (inResetWith [.idle]).inputs.head? ≠ some .releaseReset ∧ (∃ t, step (inResetWith [.idle]) = .next t) :=
  ⟨rfl, rfl, rfl, rfl, by decide, ⟨_, rfl⟩⟩

theorem witness_nonzero_product : (0x53 : Byte) ≠ 0 ∧ gmul 0x53 0xCA = 0x01 := by decide
theorem witness_equal_rows : (0 : Fin 8) ≠ 7 ∧ matRow 0 0 = matRow 0 7 := by decide
theorem witness_zero_matrix : State.reset.mat0 = 0 ∧ State.reset.mat1 = 0 := ⟨rfl, rfl⟩
theorem witness_permutation : Permutation ready.sbox := idTable_permutation

theorem witness_not_permutation : ¬ Permutation (tabulate fun _ => 0x63) := by
  intro h
  have := h 0 1 (by simp [lookup])
  exact absurd this (by decide)

/-- INVERT: a value no index maps to, and the largest index of one that all map to. -/
theorem witness_invert :
    (∀ i : Byte, lookup (tabulate fun _ => 0x63) i ≠ 0x62) ∧
      (∀ j : Byte, (255 : Byte).toNat < j.toNat → lookup (tabulate fun _ => 0x63) j ≠ lookup (tabulate fun _ => 0x63) 255) :=
  ⟨fun i => by simp [lookup], fun j h => absurd h (by have := j.isLt; simp; omega)⟩

/-- The two kinds of schedule word, at the ends of their range. -/
theorem witness_schedule_words : 4 ≤ 4 ∧ 4 < 44 ∧ 4 % 4 = 0 ∧ 40 % 4 = 0 ∧ 43 % 4 ≠ 0 ∧ 43 < 44 := by decide

theorem witness_rounds : 10 < (11 : BitVec 8).toNat ∧ (10 : BitVec 8).toNat ≤ 10 ∧ ready.keyv = true ∧
    State.reset.keyv = false := ⟨by decide, by decide, rfl, rfl⟩

theorem witness_round_trip : ready.keyv = true ∧ InverseTables ready.sbox ready.invsbox ∧ Idle ready :=
  ⟨rfl, idTable_inverse, ready_idle⟩

theorem witness_idle_without_key : Idle State.reset ∧ State.reset.keyv = false := ⟨⟨rfl, rfl⟩, rfl⟩

theorem witness_bad_key_and_sbox :
    ([] : List Byte).length ≠ 16 ∧ ([] : List SboxElement).length ≠ 256 ∧
      SboxElement.notInteger ∈ List.replicate 256 SboxElement.notInteger ∧
      (∃ n : Int, SboxElement.integer n ∈ [SboxElement.integer 256] ∧ (n < 0 ∨ 255 < n)) :=
  ⟨by decide, by decide, List.mem_replicate.2 ⟨by decide, rfl⟩, 256, by simp, by decide⟩

/-- R118: the ends of the range are entries; what lies past them, and what is no integer, is none. -/
theorem test_sbox_elements :
    [.integer 0, .integer 255, .integer 256, .integer (-1), .notInteger].map entryOf =
      [some 0x00, some 0xFF, none, none, none] := by decide

/-- Last bytes that meet each clause of unpadding: 7, 0 and 33 for a buffer of 32 bytes. -/
theorem witness_unpad :
    (List.replicate 32 (7 : Byte)).length % 16 = 0 ∧ (List.replicate 32 (7 : Byte)).getLast? = some 7 ∧
      (List.replicate 32 (0 : Byte)).getLast? = some 0 ∧ (List.replicate 32 (33 : Byte)).getLast? = some 33 := by decide

theorem witness_bad_ciphertext : ([] : List Byte).length = 0 ∧ (List.replicate 15 (0 : Byte)).length % 16 ≠ 0 := by decide

end Sys2Proof.Machine.Tests
end

section
/-! PROOFS. What one step of the machine can do, each move with its exact state after, and O14: how OVR changes. -/

namespace Sys2Proof.Machine

/-! ### The moves a step can be -/

/-- The outside's moves while reset is not asserted that do not end in a fault, from `s` to the state after: `hostMove`
read backwards (`hostMove_moves`). -/
inductive HostMoves (s : State) : State → Prop where
  | noInput (hin : s.inputs = []) : HostMoves s s
  | idle {rest : List Input} (hin : s.inputs = .idle :: rest) : HostMoves s { s with inputs := rest }
  | read {a : Access} {r : Reg} {rest : List Input} (hin : s.inputs = .access a :: rest) (hreg : regAt a.off = some r) :
      HostMoves s (logRead a.off (busRead r { s with inputs := rest }).1 (busRead r { s with inputs := rest }).2)
  | write {r : Reg} {v : Word} {rest : List Input} (hin : s.inputs = wr r v :: rest) :
      HostMoves s (busWrite r v { s with inputs := rest })
  | poll {rest : List Input} (hin : s.inputs = .wait :: rest) : HostMoves s (pollStatus rest s)
  | assertReset {rest : List Input} (hin : s.inputs = .assertReset :: rest) :
      HostMoves s (assertReset { s with inputs := rest })
  | releaseReset {rest : List Input} (hin : s.inputs = .releaseReset :: rest) : HostMoves s { s with inputs := rest }

/-- The outside's moves while reset is asserted that are not refused: `resetMove` read backwards (`resetMove_moves`). -/
inductive ResetMoves (s : State) : State → Prop where
  | noInput (hin : s.inputs = []) : ResetMoves s s
  | idle {rest : List Input} (hin : s.inputs = .idle :: rest) : ResetMoves s { s with inputs := rest }
  | assertReset {rest : List Input} (hin : s.inputs = .assertReset :: rest) : ResetMoves s { s with inputs := rest }
  | releaseReset {rest : List Input} (hin : s.inputs = .releaseReset :: rest) :
      ResetMoves s (releaseReset { s with inputs := rest })

/-- The steps that neither fault nor are refused, by which agent moves (R52, R129): `step` read backwards
(`step_moves`). -/
inductive StepMoves (s : State) : State → Prop where
  | assertReset {rest : List Input} (hin : s.inputs = .assertReset :: rest) :
      StepMoves s (assertReset { s with inputs := rest })
  | inReset {t : State} (hr : s.inReset = true) (hmove : ResetMoves s t) : StepMoves s t
  | perform {w : Word} {t : State} (hr : s.inReset = false) (hp : s.pending = some ⟨w, 0⟩)
      (hperf : perform w s = .next t) : StepMoves s t
  | waiting {w : Word} {k : Nat} {t : State} (hr : s.inReset = false) (hp : s.pending = some ⟨w, k + 1⟩)
      (hmove : HostMoves { s with pending := some ⟨w, k⟩ } t) : StepMoves s t
  | idle {t : State} (hr : s.inReset = false) (hp : s.pending = none) (hmove : HostMoves s t) : StepMoves s t

/-- A host access that is no bus error is a read or a write of a register. -/
theorem hostAccess_moves {a : Access} {rest : List Input} {s t : State} (hin : s.inputs = .access a :: rest)
    (h : hostAccess a { s with inputs := rest } = .next t) : HostMoves s t := by
  rcases serve_cases a { s with inputs := rest } with hs | ⟨r, hreg, hs⟩ | ⟨r, v, ha, hs⟩
  · simp [hostAccess, hs] at h
  · simp only [hostAccess, hs, Host.Outcome.next.injEq] at h
    exact h ▸ .read hin hreg
  · simp only [hostAccess, hs, Host.Outcome.next.injEq] at h
    exact h ▸ .write (hin.trans (by rw [ha, wr]))

theorem hostMove_moves {s t : State} (h : hostMove s = .next t) : HostMoves s t := by
  unfold hostMove at h
  split at h
  next hin => cases h; exact .noInput hin
  next hin => cases h; exact .idle hin
  next hin => exact hostAccess_moves hin h
  next hin => cases h; exact .poll hin
  next hin => cases h; exact .assertReset hin
  next hin => cases h; exact .releaseReset hin

theorem resetMove_moves {s t : State} (h : resetMove s = .next t) : ResetMoves s t := by
  unfold resetMove at h
  split at h <;> cases h
  next hin => exact .noInput hin
  next hin => exact .idle hin
  next hin => exact .assertReset hin
  next hin => exact .releaseReset hin

theorem step_moves {s t : State} (h : step s = .next t) : StepMoves s t := by
  by_cases hfirst : s.inputs.head? = some .assertReset
  · obtain ⟨rest, hin⟩ := List.head?_eq_some_iff.1 hfirst
    rw [step, machineMove_reset s rest hin] at h
    cases h
    exact .assertReset hin
  · cases hr : s.inReset with
    | true =>
      simp only [step, machineMove, resetNext_eq_false hfirst, hr] at h
      exact .inReset hr (resetMove_moves h)
    | false =>
      match hp : s.pending with
      | none => exact .idle hr hp (hostMove_moves (machineMove_idle s hr hp ▸ h))
      | some ⟨w, 0⟩ =>
        simp only [step, machineMove, resetNext_eq_false hfirst, hr, hp] at h
        exact .perform hr hp h
      | some ⟨w, k + 1⟩ => exact .waiting hr hp (hostMove_moves (machineMove_waiting s w k hfirst hr hp ▸ h))

/-! ### What each move leaves in OVR (R25) -/

@[simp] theorem busRead_ovr (r : Reg) (s : State) : (busRead r s).2.ovr = s.ovr := by
  rcases busRead_state r s with h | h <;> rw [h]

@[simp] theorem pollStatus_ovr (rest : List Input) (s : State) : (pollStatus rest s).ovr = s.ovr := by
  unfold pollStatus
  split <;> rfl

@[simp] theorem releaseReset_ovr (s : State) : (releaseReset s).ovr = false := rfl

theorem writeReg_ovr (r : Reg) (v : Word) (s : State) :
    (writeReg r v s).ovr = (s.ovr && !(decide (r = .status) && v.getLsbD 4)) := by
  cases r <;> simp [writeReg]

/-- OVR after a write of a register: set by a dropped write, cleared by STATUS bit 4, else kept (R20, R49). -/
theorem busWrite_ovr (r : Reg) (v : Word) (s : State) :
    (busWrite r v s).ovr = (s.busy || (s.ovr && !(decide (r = .status) && v.getLsbD 4))) := by
  rcases busWrite_cases r v s with ⟨hb, h⟩ | ⟨hb, h⟩
  · simp [h, hb]
  · simp [h, hb, writeReg_ovr]

theorem exec_ovr {i : Instr} {s t : State} (h : exec i s = .next t) : t.ovr = s.ovr := by
  obtain ⟨c, u, hexec, hu⟩ := exec_writes i s
  cases hexec.symm.trans h
  exact (congrArg State.ovr hu :)

/-- No command changes OVR, and no illegal word does (R25, R64). -/
theorem perform_ovr {w : Word} {s t : State} (h : perform w s = .next t) : t.ovr = s.ovr := by
  unfold perform at h
  split at h
  · exact exec_ovr h
  · cases h
    rfl

/-- Of the outside's moves only a write of a register can change OVR. -/
theorem HostMoves.ovr {s t : State} (h : HostMoves s t) :
    t.ovr = s.ovr ∨ ∃ r v, s.inputs.head? = some (wr r v) ∧ t.ovr = (busWrite r v s).ovr := by
  cases h with
  | @write r v rest hin => exact .inr ⟨r, v, by simp [hin], by simp only [busWrite_ovr, State.busy]⟩
  | noInput | idle | read | poll | assertReset | releaseReset => exact .inl (by simp)

theorem ResetMoves.ovr {s t : State} (h : ResetMoves s t) :
    t.ovr = s.ovr ∨ (s.inputs.head? = some .releaseReset ∧ t.ovr = false) := by
  cases h with
  | releaseReset hin => exact .inr ⟨by simp [hin], rfl⟩
  | noInput | idle | assertReset => exact .inl rfl

/-- A step keeps OVR, or is a write of a register with that write's effect on OVR, or is the release of reset (R25). -/
theorem step_ovr {s t : State} (h : step s = .next t) :
    t.ovr = s.ovr ∨ (∃ r v, s.inputs.head? = some (wr r v) ∧ t.ovr = (busWrite r v s).ovr) ∨
      (s.inReset = true ∧ s.inputs.head? = some .releaseReset ∧ t.ovr = false) := by
  cases step_moves h with
  | assertReset => exact .inl rfl
  | inReset hr hmove => exact hmove.ovr.imp_right fun hrel => .inr ⟨hr, hrel⟩
  | perform _ _ hperf => exact .inl (perform_ovr hperf)
  | waiting _ hp hmove =>
    -- counting the latency down leaves BUSY, so the write's effect on OVR is the one from `s`
    exact hmove.ovr.imp_right fun ⟨r, v, hin, ht⟩ => .inl ⟨r, v, hin, by simpa [busWrite_ovr, State.busy, hp] using ht⟩
  | idle _ _ hmove => exact hmove.ovr.imp_right .inl

/-- OVR rises only at a dropped write (R25, R49). -/
theorem step_ovr_rises {s t : State} (h : step s = .next t) (hs : s.ovr = false) (ht : t.ovr = true) :
    s.busy = true ∧ ∃ r v, s.inputs.head? = some (wr r v) := by
  rcases step_ovr h with hkeep | ⟨r, v, hin, hw⟩ | ⟨_, _, hclr⟩
  · simp [hkeep, hs] at ht
  · exact ⟨by simpa [busWrite_ovr, hs, ht] using hw, r, v, hin⟩
  · simp [hclr] at ht

/-- OVR falls only at an idle write of STATUS with bit 4 set, or at the release of reset (R25). -/
theorem step_ovr_falls {s t : State} (h : step s = .next t) (hs : s.ovr = true) (ht : t.ovr = false) :
    (s.busy = false ∧ ∃ v, s.inputs.head? = some (wr .status v) ∧ v.getLsbD 4 = true) ∨
      (s.inReset = true ∧ s.inputs.head? = some .releaseReset) := by
  rcases step_ovr h with hkeep | ⟨r, v, hin, hw⟩ | ⟨hr, hin, _⟩
  · simp [hkeep, hs] at ht
  · obtain ⟨hb, rfl, hv⟩ : s.busy = false ∧ r = .status ∧ v.getLsbD 4 = true := by
      simpa [busWrite_ovr, hs, ht] using hw
    exact .inl ⟨hb, v, hin, hv⟩
  · exact .inr ⟨hr, hin⟩

/-- Settles O14: `step_ovr` says what a step can do to OVR, `busWrite_ovr` what a write does, `perform_ovr` that no command
does anything. -/
theorem ovrChangesOnlyAsListed : Obligations.OvrChangesOnlyAsListed := by
  unfold Obligations.OvrChangesOnlyAsListed
  refine ⟨fun s t h => ⟨step_ovr_rises h, step_ovr_falls h⟩, ?dropped, ?cleared, fun w s t h => perform_ovr h, fun n => rfl⟩
  case dropped => exact fun r v s hb => by simp [busWrite_ovr, hb]
  case cleared => exact fun v s hb hv => by simp [busWrite_ovr, hb, hv]

end Sys2Proof.Machine
end

section
/-! PROOFS. The host side of the block: which accesses get a bus error (O17), what a write does while idle (O18) and while
busy (O19), and what a read returns while busy (O20). -/

namespace Sys2Proof.Machine

/-! ### The register map against the offsets it marks unmapped (R17, R41, R42) -/

theorem regAt_eq_none_iff (off : Offset) : regAt off = none ↔ off.toNat % 4 ≠ 0 ∨ Unmapped off := by
  -- each `if` of the map that gives a register answers `none` exactly when its guard fails and the rest does
  simp only [regAt, Unmapped, ite_eq_iff, dite_eq_iff, reduceCtorEq, and_true, and_false, false_or, exists_false,
    exists_prop]
  omega

/-- An aligned offset that is not marked unmapped is the offset of a register. -/
theorem exists_offsetOf_eq {off : Offset} (ha : off.toNat % 4 = 0) (hm : ¬ Unmapped off) : ∃ r, offsetOf r = off := by
  cases hr : regAt off with
  | none => exact absurd ((regAt_eq_none_iff off).1 hr) (by simp [ha, hm])
  | some r => exact ⟨r, offsetOf_of_regAt hr⟩

/-! ### Bus errors (R41, R42) -/

/-- An access gets a bus error when it is illegal or names no register, whatever the state. -/
theorem serve_busError_iff (a : Access) (s : State) :
    (serve a s).1 = .busError ↔ a.legal = false ∨ regAt a.off = none := by
  cases hl : a.legal with
  | false => simp [serve, hl]
  | true => cases hr : regAt a.off <;> cases a <;> simp [serve, hl, hr]

/-- Whether an access gets a bus error does not depend on the state. -/
theorem serve_busError_congr {a : Access} {s : State} (t : State) (h : (serve a s).1 = .busError) :
    (serve a t).1 = .busError :=
  (serve_busError_iff a t).2 ((serve_busError_iff a s).1 h)

/-- A bus error changes no state. -/
theorem serve_of_busError {a : Access} {s : State} (h : (serve a s).1 = .busError) : serve a s = (.busError, s) := by
  rcases serve_cases a s with hs | ⟨r, -, hs⟩ | ⟨r, v, -, hs⟩
  · exact hs
  · simp [hs] at h
  · simp [hs] at h

theorem hostAccess_of_busError {a : Access} {s : State} (h : (serve a s).1 = .busError) :
    hostAccess a s = .fault (.busError a.off) := by
  simp [hostAccess, serve_of_busError h]

/-- At the host's turn an access that is next is the step, made with the latency of a pending command counted down (R52). -/
theorem step_of_hostTurn {s : State} {a : Access} {rest : List Input} (h : HostTurn s) (hin : s.inputs = .access a :: rest) :
    ∃ p, step s = hostAccess a { s with pending := p, inputs := rest } := by
  obtain ⟨hr, hleft⟩ := h
  match hp : s.pending with
  | none => exact ⟨none, by simp [step, machineMove_idle s hr hp, hostMove, hin, ← hp]⟩
  | some ⟨w, 0⟩ => exact absurd rfl (hleft _ hp)
  | some ⟨w, k + 1⟩ =>
    exact ⟨some ⟨w, k⟩, by simp [step, machineMove_waiting s w k (by simp [hin]) hr hp, hostMove, hin]⟩

/-- Settles O17: `serve_busError_iff` says which accesses get a bus error, with the map's `regAt_eq_none_iff`, and since it
does not depend on the state the host's step meets the same answer. -/
theorem illegalAccessesGetABusError : Obligations.IllegalAccessesGetABusError := by
  unfold Obligations.IllegalAccessesGetABusError
  refine ⟨?read, ?write, ?unchanged, ?fault⟩
  case read =>
    intro s off size
    simp only [serve_busError_iff, Access.legal, Access.off, regAt_eq_none_iff, decide_eq_false_iff_not]
    tauto
  case write =>
    intro s off size strobes v
    simp only [serve_busError_iff, Access.legal, Access.off, regAt_eq_none_iff, decide_eq_false_iff_not]
    tauto
  case unchanged =>
    intro s a h
    simp [serve_of_busError h, Response.data]
  case fault =>
    intro s a rest hturn hin h
    obtain ⟨p, hstep⟩ := step_of_hostTurn hturn hin
    exact hstep.trans (hostAccess_of_busError (serve_busError_congr _ h))

/-! ### Writes (R47 to R49) -/

/-- A write of a register while idle is answered and has its listed effect. -/
theorem serve_write32_idle {s : State} (h : s.busy = false) (r : Reg) (v : Word) :
    serve (write32 (offsetOf r) v) s = (.written, writeReg r v s) := by
  simp [busWrite, h]

theorem writeStatus_eq_ite (v : Word) (s : State) :
    writeStatus v s = if v.getLsbD 4 then { s with ovr := false } else s := by
  cases hv : v.getLsbD 4
  · simp only [writeStatus, hv, Bool.not_false, Bool.and_true]
    rfl
  · simp only [writeStatus, hv, Bool.not_true, Bool.and_false, if_true]

/-- The four entries of a written window word are the value's byte lanes (R43, R47). -/
theorem setTableWord_written (t : Table) (k : Fin 64) (v : Word) (b : Fin 4) :
    (setTableWord t k v)[4 * k.val + b.val] = v.extractLsb' (8 * b.val) 8 := by
  have hk : (4 * k.val + b.val) / 4 = k.val := by omega
  have hb : (4 * k.val + b.val) % 4 = b.val := by omega
  simp [getElem_setTableWord, hk, hb, lane]

theorem setTableWord_other (t : Table) (k : Fin 64) (v : Word) (i : Fin 256) (h : i.val / 4 ≠ k.val) :
    (setTableWord t k v)[i] = t[i] := by
  simp [getElem_setTableWord, h]

/-- Settles O18: each offset is `offsetOf` of its register, and the effect there is that register's arm of `writeReg`. -/
theorem idleWritesHaveTheListedEffects : Obligations.IdleWritesHaveTheListedEffects := by
  unfold Obligations.IdleWritesHaveTheListedEffects
  intro s v hidle
  have hw := fun r => serve_write32_idle hidle r v
  refine ⟨⟨_, hw .cmd⟩, writeStatus_eq_ite v s ▸ hw .status, fun j => hw (.key j), fun j => hw (.din j), hw .mat0,
    hw .mat1, ?gfop, ?sbox, ?invsbox, hw .id, fun j => hw (.dout j), hw .gfres, fun k => hw (.rk k)⟩
  case gfop => exact BitVec.setWidth_eq_extractLsb' (w := 16) (x := v) (by decide) ▸ hw .gfop
  case sbox => exact fun k => ⟨_, hw (.sbox k), setTableWord_written s.sbox k v, setTableWord_other s.sbox k v⟩
  case invsbox => exact fun k => ⟨_, hw (.invsbox k), setTableWord_written s.invsbox k v, setTableWord_other s.invsbox k v⟩

/-- A write of a register while busy is answered, dropped, and sets OVR. -/
theorem serve_write32_busy {s : State} (h : s.busy = true) (r : Reg) (v : Word) :
    serve (write32 (offsetOf r) v) s = (.written, { s with ovr := true }) := by
  simp [busWrite, h]

/-- Settles O19: an aligned mapped offset is a register's, and `serve_write32_busy` holds for every register. -/
theorem busyWritesAreDropped : Obligations.BusyWritesAreDropped := by
  unfold Obligations.BusyWritesAreDropped
  intro s off v hbusy ha hm
  obtain ⟨r, rfl⟩ := exists_offsetOf_eq ha hm
  exact serve_write32_busy hbusy r v

/-! ### Reads while busy (R50) -/

/-- A read while busy of a register other than ID and STATUS takes the next free value (log entry 2). -/
theorem busRead_busy {r : Reg} {s : State} (h : s.busy = true) (hid : r ≠ .id) (hst : r ≠ .status) :
    busRead r s = (Config.busyRead s.busyReads, { s with busyReads := s.busyReads + 1 }) := by
  simp [busRead, h, hid, hst]

/-- ID and STATUS read exactly, busy or not. -/
theorem busRead_exact {r : Reg} (s : State) (h : r = .id ∨ r = .status) : busRead r s = (readReg r s, s) := by
  rcases h with rfl | rfl <;> simp [busRead]

/-- Settles O20: ID and STATUS by `busRead_exact`; any other mapped offset is that of a register that is neither, which
`busRead_busy` answers. -/
theorem busyReadsAreExactOnlyForIdAndStatus : Obligations.BusyReadsAreExactOnlyForIdAndStatus := by
  unfold Obligations.BusyReadsAreExactOnlyForIdAndStatus
  intro s hbusy
  refine ⟨?id, ?status, ?other⟩
  case id => exact (serve_read32 .id s).trans (by rw [busRead_exact s (.inl rfl)]; rfl)
  case status => exact (serve_read32 .status s).trans (by rw [busRead_exact s (.inr rfl)]; rfl)
  case other =>
    intro off ha hm hid hst
    obtain ⟨r, rfl⟩ := exists_offsetOf_eq ha hm
    have hr : r ≠ .id ∧ r ≠ .status := ⟨fun h => hid (h ▸ rfl), fun h => hst (h ▸ rfl)⟩
    rw [serve_read32, busRead_busy hbusy hr.1 hr.2]

end Sys2Proof.Machine
end

section
/-! PROOFS. The command encoding: the fields of a word decide how it decodes, exactly which words are illegal and what an
illegal command does (O3), and how a write of CMD is accepted or dropped (O5). -/

namespace Sys2Proof

/-! ### What the opcode map answers (R59, R61) -/

/-- The reserved OP values are the gaps between the rows of the map. -/
theorem commandAt_eq_none_iff (op : Byte) (arg : BitVec 4) :
    commandAt op arg = none ↔
      (0x05 ≤ op.toNat ∧ op.toNat ≤ 0x0F) ∨ (0x13 ≤ op.toNat ∧ op.toNat ≤ 0x1F) ∨
        (0x27 ≤ op.toNat ∧ op.toNat ≤ 0x2F) ∨ 0x34 ≤ op.toNat := by
  unfold commandAt
  split
  case h_20 =>
    -- the default row: OP is none of the listed values
    refine iff_of_true rfl ?_
    simp only [imp_false] at *
    omega
  all_goals simp [*]

/-- The map's row for a command is at that command's OP. -/
theorem opcodeOf_of_commandAt {op : Byte} {arg : BitVec 4} {i : Instr} (h : commandAt op arg = some i) :
    opcodeOf i = op := by
  unfold commandAt at h
  split at h <;> cases h
  all_goals exact BitVec.eq_of_toNat_eq (Eq.symm ‹_›)

/-! ### How the fields of a word decide its decoding (R57, R61) -/

/-- A word is RSV, ARG and OP put together, so its three fields determine it (R57). -/
theorem word_ext_fields {v w : Word} (hop : opField v = opField w) (harg : argField v = argField w)
    (hrsv : rsvField v = rsvField w) : v = w := by
  have hsplit (u : Word) : u = rsvField u ++ argField u ++ opField u := by
    rw [rsvField, argField, opField, BitVec.extractLsb'_append_extractLsb'_eq_extractLsb' (by rfl),
      BitVec.extractLsb'_append_extractLsb'_eq_extractLsb' (by rfl)]
    exact BitVec.extractLsb'_eq_self.symm
  rw [hsplit v, hsplit w, hop, harg, hrsv]

/-- A word is a command when its OP is mapped and RSV and ARG are as R57 and R58 have them. -/
theorem decodeWord_eq_ok_iff (w : Word) (i : Instr) :
    decodeWord w = .ok i ↔
      commandAt (opField w) (argField w) = some i ∧ rsvField w = 0 ∧ (argField w ≠ 0 → opField w = 0x26) := by
  unfold decodeWord
  split
  next hc => simp [hc]
  next j hc =>
    split_ifs with hrsv harg
    · exact iff_of_false nofun fun h => hrsv h.2.1
    · exact iff_of_false nofun fun h => harg.2 (h.2.2 harg.1)
    · simpa [hc, of_not_not hrsv] using fun _ => harg

/-- The three grounds on which a word is illegal (R61). -/
theorem decodeWord_isError_iff (w : Word) :
    (∃ e, decodeWord w = .error e) ↔
      commandAt (opField w) (argField w) = none ∨ rsvField w ≠ 0 ∨ (argField w ≠ 0 ∧ opField w ≠ 0x26) := by
  unfold decodeWord
  split
  next hc => simp [hc]
  next i hc =>
    split_ifs with hrsv harg
    · exact iff_of_true ⟨_, rfl⟩ (.inr (.inl hrsv))
    · exact iff_of_true ⟨_, rfl⟩ (.inr (.inr harg))
    · simpa [hc, of_not_not hrsv] using harg

/-- Only the word 0 is NOP (R61). -/
theorem eq_zero_of_decodeWord_nop {w : Word} (h : decodeWord w = .ok .nop) : w = 0 := by
  obtain ⟨hc, hrsv, harg⟩ := (decodeWord_eq_ok_iff w .nop).1 h
  have hop : opField w = 0 := (opcodeOf_of_commandAt hc).symm
  have harg : argField w = 0 := by simpa [hop] using harg
  exact word_ext_fields hop harg hrsv

/-- Every round the four bits of ARG can hold decodes, 11 to 15 too (R58, R61). -/
theorem decodeWord_addroundkey {n : BitVec 8} (h : n.toNat ≤ 15) :
    decodeWord (0x26 ||| (n.setWidth 32 <<< 8)) = .ok (.addroundkey n) := by
  -- four bits hold the round
  have hfits (m : Nat) : (n.setWidth 4).setWidth m = n.setWidth m := by
    apply BitVec.eq_of_toNat_eq
    simp [Nat.mod_eq_of_lt (show n.toNat < 16 by omega)]
  have henc : 0x26 ||| (n.setWidth 32 <<< 8) = encode (.addroundkey n) := by
    rw [encode, opcodeOf, argOf, hfits]
    rfl
  have hmap : commandAt 0x26 (n.setWidth 4) = some (.addroundkey ((n.setWidth 4).setWidth 8)) := rfl
  obtain ⟨hop, harg, hrsv⟩ := Laws.EncodesFields.addroundkey n
  rw [henc, decodeWord_eq_ok_iff, hop, harg]
  exact ⟨by rw [opcodeOf, argOf, hmap, hfits, BitVec.setWidth_eq], hrsv, fun _ => rfl⟩

end Sys2Proof

namespace Sys2Proof.Machine

/-! ### Illegal words and rounds out of range (R61) -/

/-- Performing an illegal word reports ILLEGAL_CMD and nothing else (R61). -/
theorem perform_of_error {w : Word} (s : State) (h : ∃ e, decodeWord w = .error e) :
    perform w s = .next { s with err := .illegalCmd, pending := none } := by
  obtain ⟨e, he⟩ := h
  simp only [perform, he]
  rfl

/-- A round past 10 is refused before KEYV is looked at (R109, R129). -/
theorem exec_addroundkey_of_lt {n : BitVec 8} (s : State) (h : 10 < n.toNat) :
    exec (.addroundkey n) s = .next { s with err := .illegalArg, pending := none } := by
  have hn : ¬ n.toNat < 11 := by omega
  rw [exec, execAddroundkey, dif_neg hn]
  rfl

/-- Settles O3: `decodeWord_isError_iff` gives the three grounds and `commandAt_eq_none_iff` the reserved OP values; the
other clauses are one lemma each, and acceptance does not look at the word. -/
theorem illegalWordsCompleteWithIllegalCmd : Obligations.IllegalWordsCompleteWithIllegalCmd := by
  unfold Obligations.IllegalWordsCompleteWithIllegalCmd
  refine ⟨?illegal, ?completes, ?accepted, ?round, fun w h => eq_zero_of_decodeWord_nop h⟩
  case illegal => exact fun w => by rw [decodeWord_isError_iff, commandAt_eq_none_iff]
  case completes => exact fun w s h => perform_of_error s h
  case accepted => exact fun w s hidle => ⟨accept w s, _, by simp [busWrite, hidle, writeReg], rfl, rfl⟩
  case round => exact fun n s hlo hhi => ⟨decodeWord_addroundkey hhi, exec_addroundkey_of_lt s hlo⟩

/-! ### A write of CMD at the step (R62) -/

/-- A write of a register that is next is the host's move (R47, R49). -/
theorem hostMove_write {s : State} {r : Reg} {v : Word} {rest : List Input} (hin : s.inputs = wr r v :: rest) :
    hostMove s = .next (busWrite r v { s with inputs := rest }) := by
  simp [hostMove, hin, wr, hostAccess]

/-- Settles O5: with nothing pending, and with a latency not over, the host moves, and its move is the write of CMD: accepted
in the first case, dropped in the second. -/
theorem acceptanceLatchesTheWord : Obligations.AcceptanceLatchesTheWord := by
  unfold Obligations.AcceptanceLatchesTheWord
  intro s v rest hr hin
  refine ⟨fun hp => ?idle, fun w k hp => ?busy⟩
  case idle =>
    refine ⟨Config.latency s.issued v, ?_⟩
    rw [step, machineMove_idle s hr hp, hostMove_write hin]
    simp [busWrite, State.busy, hp, writeReg, accept]
  case busy =>
    rw [step, machineMove_waiting s w k (by simp [hin, wr]) hr hp,
      hostMove_write (s := { s with pending := some ⟨w, k⟩ }) hin]
    rfl

end Sys2Proof.Machine
end

section
/-! PROOFS. The GF(2^8) commands (O31 to O34): each writes GFRES and completes. -/

namespace Sys2Proof.Machine

/-! ### Words with one OP (R61) -/

/-- A word that decodes is the only one with its OP, unless that OP is ADDROUNDKEY's: RSV and ARG must both be 0 (R61). -/
theorem onlyWordOf_of_decode {w : Word} {i : Instr} (h : decodeWord w = .ok i) (hop : opField w ≠ 0x26) :
    OnlyWordOf w i := by
  have hzero {v : Word} {j : Instr} (hv : decodeWord v = .ok j) (he : opField v = opField w) :
      argField v = 0 ∧ rsvField v = 0 := by
    obtain ⟨-, hrsv, harg⟩ := (decodeWord_eq_ok_iff v j).1 hv
    exact ⟨by_contra fun hne => hop (he ▸ harg hne), hrsv⟩
  refine ⟨h, fun v he hne => ?_⟩
  cases hv : decodeWord v with
  | error e => exact ⟨e, rfl⟩
  | ok j =>
    obtain ⟨hwa, hwr⟩ := hzero h rfl
    obtain ⟨hva, hvr⟩ := hzero hv he
    exact absurd (word_ext_fields he (hva.trans hwa.symm) (hvr.trans hwr.symm)) hne

/-! ### Products by 0 and by x (R71) -/

@[simp] theorem gmul_zero_left (b : Byte) : gmul 0 b = 0 := by
  simpa using gmul_xor_left 0 0 b

@[simp] theorem gmul_zero_right (a : Byte) : gmul a 0 = 0 := by
  simp [gmul, List.range_succ, gmulStep]

/-- Only bit 1 of 2 is set, so the loop adds `a` times x alone. -/
theorem gmul_two (a : Byte) : gmul a 2 = xtime a := by
  simp [gmul, List.range_succ, gmulStep]

/-! ### Affine images of 0, and under the zero and the identity matrix (R75, R76) -/

theorem xorBits_eq (f : Fin 8 → Bool) :
    xorBits f = (f 0 ^^ f 1 ^^ f 2 ^^ f 3 ^^ f 4 ^^ f 5 ^^ f 6 ^^ f 7) := by
  simp [xorBits, List.finRange_succ]

/-- A matrix row with the one entry `r` picks out element `r` of the vector. -/
theorem xorBits_unit (f : Fin 8 → Bool) (r : Fin 8) : xorBits (fun c => decide (r = c) && f c) = f r := by
  fin_cases r <;> simp [xorBits_eq]

theorem xorBits_false : xorBits (fun _ => false) = false := rfl

/-- Where the matrix–vector product is `z`, the affine image is `z ^ 0x63` (R74). -/
theorem affine_eq_of_product {m : AffineMatrix} {y z : Byte}
    (h : ∀ r : Fin 8, xorBits (fun c => matEntry m r c && y.getLsbD c.val) = z.getLsbD r.val) :
    affine m y = z ^^^ 0x63 := by
  apply BitVec.eq_of_getLsbD_eq
  intro r hr
  rw [affine_getLsbD m y r hr, h, BitVec.getLsbD_xor]

theorem affine_zero_right (m : AffineMatrix) : affine m 0 = 0x63 :=
  affine_eq_of_product (z := 0) fun r => by simp [xorBits_false]

theorem affine_zero_left (y : Byte) : affine 0 y = 0x63 :=
  affine_eq_of_product (z := 0) fun r => by simp [matEntry, xorBits_false]

/-- The matrix of ones on the diagonal alone (R76). -/
theorem affine_identity (y : Byte) : affine ((0x80402010 : Word) ++ (0x08040201 : Word)) y = y ^^^ 0x63 := by
  have hentry : ∀ r c : Fin 8, matEntry ((0x80402010 : Word) ++ (0x08040201 : Word)) r c = decide (r = c) := by decide
  exact affine_eq_of_product fun r => by simp only [hentry, xorBits_unit]

/-! ### The commands (R79 to R82) -/

/-- Settles O31: the command's word is its only one, and its arm writes GFRES and completes. -/
theorem gfinvWritesTheInverse : Obligations.GfinvWritesTheInverse := by
  unfold Obligations.GfinvWritesTheInverse
  exact ⟨onlyWordOf_of_decode rfl (by decide), fun s => rfl, rfl, rfl, rfl⟩

/-- Settles O32: as O31, with the products by 0, by x and by the inverse each a lemma. -/
theorem gfmulWritesTheProduct : Obligations.GfmulWritesTheProduct := by
  unfold Obligations.GfmulWritesTheProduct
  exact ⟨onlyWordOf_of_decode rfl (by decide), fun s => rfl,
    fun a => ⟨gmul_zero_left a, gmul_zero_right a, gmul_two a, gmul_ginv a⟩, by decide, by decide⟩

/-- Settles O33: as O31, with the three corollaries each a lemma. -/
theorem affineWritesTheImage : Obligations.AffineWritesTheImage := by
  unfold Obligations.AffineWritesTheImage
  exact ⟨onlyWordOf_of_decode rfl (by decide), fun s => rfl, affine_zero_right, affine_zero_left, affine_identity,
    by decide⟩

/-- The entries of the table CONSTRUCT builds (R83). -/
theorem lookup_constructTable (m : AffineMatrix) (x : Byte) : lookup (constructTable m) x = affine m (ginv x) := by
  simp [lookup, constructTable]

/-- Settles O34: CONSTRUCT leaves the table `constructTable` in SBOX, whose entry is the same image. -/
theorem affinvWritesTheConstructorEntry : Obligations.AffinvWritesTheConstructorEntry := by
  unfold Obligations.AffinvWritesTheConstructorEntry
  refine ⟨onlyWordOf_of_decode rfl (by decide), fun s => ⟨_, rfl, rfl, _, rfl, ?entry⟩, fun m => affine_zero_right m,
    by decide⟩
  case entry => exact lookup_constructTable (matrixOf s) (gfopA s)

end Sys2Proof.Machine
end

section
/-! PROOFS. DetParity is the determinant over GF(2) (O28). The elimination keeps the determinant of its rows and, as long as
every column has had a pivot, the columns behind it are those of the identity; a column with no pivot depends on them, and
the determinant is then 0. -/

namespace Sys2Proof.Machine

/-! ### Rows as a matrix over GF(2) -/

/-- A bit as an element of GF(2). -/
def gf2 (b : Bool) : ZMod 2 := if b then 1 else 0

@[simp] theorem gf2_false : gf2 false = 0 := rfl
@[simp] theorem gf2_true : gf2 true = 1 := rfl
theorem gf2_xor (a b : Bool) : gf2 (a ^^ b) = gf2 a + gf2 b := by cases a <;> cases b <;> rfl
theorem gf2_and (a b : Bool) : gf2 (a && b) = gf2 a * gf2 b := by cases a <;> cases b <;> rfl

/-- The matrix over GF(2) whose row `i` is the byte `rows[i]`. -/
def rowsMatrix (rows : Vector Byte 8) : Matrix (Fin 8) (Fin 8) (ZMod 2) :=
  Matrix.of fun i j => gf2 (rows[i].getLsbD j.val)

theorem rowsMatrix_apply (rows : Vector Byte 8) (i j : Fin 8) : rowsMatrix rows i j = gf2 (rows[i].getLsbD j.val) := rfl

/-- The rows the elimination starts from are the matrix (R31, R78). -/
theorem rowsMatrix_matRow (m : AffineMatrix) :
    rowsMatrix (tabulate (matRow m)) = Matrix.of fun r c => if matEntry m r c then (1 : ZMod 2) else 0 := by
  ext r c
  rw [rowsMatrix_apply, Fin.getElem_fin, getElem_tabulate, matRow_getLsbD]
  rfl

/-! ### One column of the elimination (R78) -/

/-- Row `k` added to every other row with a 1 in column `c`. -/
def clearColumn (rows : Vector Byte 8) (k : Fin 8) (c : Nat) : Vector Byte 8 :=
  tabulate fun i => if i.val ≠ k.val ∧ rows[i].getLsbD c then rows[i] ^^^ rows[k] else rows[i]

theorem getLsbD_clearColumn (rows : Vector Byte 8) (k : Fin 8) (c : Nat) (i j : Fin 8) :
    (clearColumn rows k c)[i].getLsbD j.val =
      (rows[i].getLsbD j.val ^^ ((decide (i ≠ k) && rows[i].getLsbD c) && rows[k].getLsbD j.val)) := by
  rw [clearColumn, Fin.getElem_fin, getElem_tabulate]
  by_cases hadd : i.val ≠ k.val ∧ rows[i].getLsbD c
  · rw [if_pos hadd, BitVec.getLsbD_xor, hadd.2, decide_eq_true (Fin.ext_iff.not.2 hadd.1), Bool.true_and, Bool.true_and]
  · have hkeep : (decide (i ≠ k) && rows[i].getLsbD c) = false := by simpa [Fin.ext_iff] using hadd
    rw [if_neg hadd, hkeep, Bool.false_and, Bool.xor_false]

/-- Everything a column can do: it has no 1 at or below the next pivot row and nothing changes, or a row with one is swapped
there and clears the column. -/
theorem elimColumn_cases (rows : Vector Byte 8) (k c : Nat) :
    (elimColumn (rows, k) c = (rows, k) ∧ ∀ i : Fin 8, k ≤ i.val → rows[i].getLsbD c = false) ∨
    (∃ (q p : Fin 8), q.val = k ∧ q ≤ p ∧ rows[p].getLsbD c = true ∧
      elimColumn (rows, k) c = (clearColumn (rows.swap q p) q c, k + 1)) := by
  unfold elimColumn
  split_ifs with hk
  · split
    next hnone => exact .inl ⟨rfl, fun i hi => by simpa [hi] using List.find?_eq_none.1 hnone i (List.mem_finRange i)⟩
    next p hsome =>
      have hp := List.find?_some hsome
      simp only [Bool.and_eq_true, decide_eq_true_eq] at hp
      exact .inr ⟨⟨k, hk⟩, p, rfl, hp.1, hp.2, rfl⟩
  · exact .inl ⟨rfl, fun i hi => absurd (hi.trans_lt i.isLt) hk⟩

/-! ### The determinant of the rows -/

theorem getElem_swap_eq (rows : Vector Byte 8) (q p i : Fin 8) :
    (rows.swap q p)[i] = rows[Equiv.swap q p i] := by
  simp only [Fin.getElem_fin, Vector.getElem_swap, Equiv.swap_apply_def, ← Fin.ext_iff]
  split_ifs <;> rfl

/-- Swapping two rows changes the sign of a determinant, and over GF(2) signs are equal. -/
theorem det_rowsMatrix_swap (rows : Vector Byte 8) (q p : Fin 8) :
    (rowsMatrix (rows.swap q p)).det = (rowsMatrix rows).det := by
  have hperm : rowsMatrix (rows.swap q p) = (rowsMatrix rows).submatrix (Equiv.swap q p) id := by
    ext i j
    rw [Matrix.submatrix_apply, rowsMatrix_apply, rowsMatrix_apply, getElem_swap_eq, id]
  rw [hperm, Matrix.det_permute]
  rcases Int.units_eq_one_or (Equiv.Perm.sign (Equiv.swap q p)) with h | h <;> simp [h]

/-- Adding a row to others keeps the determinant. -/
theorem det_rowsMatrix_clearColumn (rows : Vector Byte 8) (k : Fin 8) (c : Nat) :
    (rowsMatrix (clearColumn rows k c)).det = (rowsMatrix rows).det := by
  refine Matrix.det_eq_of_forall_row_eq_smul_add_const
    (fun i => gf2 (decide (i ≠ k) && rows[i].getLsbD c)) k (by simp) fun i j => ?_
  rw [rowsMatrix_apply, getLsbD_clearColumn, gf2_xor, gf2_and]
  rfl

/-! ### Columns of the identity -/

/-- The first `k` columns are those of the identity. -/
def UnitColumns (rows : Vector Byte 8) (k : Nat) : Prop :=
  ∀ i j : Fin 8, j.val < k → rows[i].getLsbD j.val = decide (i = j)

theorem UnitColumns.swap {rows : Vector Byte 8} {q p : Fin 8} (h : UnitColumns rows q) (hqp : q ≤ p) :
    UnitColumns (rows.swap q p) q := by
  intro i j hj
  have hfix : Equiv.swap q p j = j := Equiv.swap_apply_of_ne_of_ne (by omega) (by omega)
  rw [getElem_swap_eq, h _ j hj, decide_eq_decide, ← Equiv.eq_symm_apply, Equiv.symm_swap, hfix]

/-- Clearing a column but for its pivot makes it one more column of the identity. -/
theorem UnitColumns.clear {rows : Vector Byte 8} {q : Fin 8} (h : UnitColumns rows q)
    (hpivot : rows[q].getLsbD q.val = true) : UnitColumns (clearColumn rows q q) (q + 1) := by
  intro i j hj
  rw [getLsbD_clearColumn]
  rcases Nat.lt_succ_iff_lt_or_eq.1 hj with hlt | heq
  · have hqj : decide (q = j) = false := decide_eq_false (by omega)
    rw [h i j hlt, h q j hlt, hqj, Bool.and_false, Bool.xor_false]
  · obtain rfl : j = q := Fin.ext heq
    rw [hpivot, Bool.and_true]
    by_cases hij : i = j
    · rw [hij, hpivot]
      simp
    · simp [hij]

theorem UnitColumns.rowsMatrix_apply_eq {rows : Vector Byte 8} {k : Nat} (h : UnitColumns rows k) (i j : Fin 8)
    (hj : j.val < k) : rowsMatrix rows i j = (1 : Matrix (Fin 8) (Fin 8) (ZMod 2)) i j := by
  rw [rowsMatrix_apply, h i j hj, Matrix.one_apply]
  by_cases hij : i = j <;> simp [hij]

/-- With every column the identity's, the rows are the identity. -/
theorem UnitColumns.det_eq_one {rows : Vector Byte 8} (h : UnitColumns rows 8) : (rowsMatrix rows).det = 1 := by
  have hone : rowsMatrix rows = 1 := Matrix.ext fun i j => h.rowsMatrix_apply_eq i j j.isLt
  rw [hone, Matrix.det_one]

/-- A vector that is 0 from element `k` on meets only columns of the identity. -/
theorem UnitColumns.mulVec_eq {rows : Vector Byte 8} {k : Nat} (h : UnitColumns rows k) {w : Fin 8 → ZMod 2}
    (hw : ∀ j : Fin 8, k ≤ j.val → w j = 0) : (rowsMatrix rows).mulVec w = w := by
  calc (rowsMatrix rows).mulVec w = (1 : Matrix (Fin 8) (Fin 8) (ZMod 2)).mulVec w := by
        ext i
        rw [Matrix.mulVec, Matrix.mulVec, dotProduct, dotProduct]
        refine Finset.sum_congr rfl fun j _ => ?_
        rcases lt_or_ge j.val k with hj | hj
        · rw [h.rowsMatrix_apply_eq i j hj]
        · rw [hw j hj, mul_zero, mul_zero]
    _ = w := Matrix.one_mulVec w

/-- A column `w` with no 1 from its own row down is the sum of columns before it: the matrix takes both `w` and the unit
vector of that column to `w`, so it takes their sum to 0. -/
theorem UnitColumns.det_eq_zero {rows : Vector Byte 8} {k : Fin 8} (h : UnitColumns rows k)
    (hzero : ∀ i : Fin 8, k.val ≤ i.val → rows[i].getLsbD k.val = false) : (rowsMatrix rows).det = 0 := by
  have hcol : ∀ i : Fin 8, k.val ≤ i.val → (rowsMatrix rows).col k i = 0 := fun i hi => by
    rw [Matrix.col_apply, rowsMatrix_apply, hzero i hi, gf2_false]
  refine Matrix.exists_mulVec_eq_zero_iff.1 ⟨(rowsMatrix rows).col k + Pi.single k 1, fun hv => ?nonzero, ?product⟩
  case nonzero =>
    have hk := congrFun hv k
    simp [hcol k le_rfl, -Matrix.col_apply] at hk
  case product =>
    rw [Matrix.mulVec_add, h.mulVec_eq hcol, Matrix.mulVec_single_one, CharTwo.add_self_eq_zero]

/-! ### The whole elimination -/

/-- What holds after the columns before `c`, `m` the matrix to begin with: either each had a pivot, the determinant is kept
and those columns are the identity's, or one had none and the determinant is 0. -/
def ElimInv (m : Matrix (Fin 8) (Fin 8) (ZMod 2)) (c : Nat) (st : Vector Byte 8 × Nat) : Prop :=
  (st.2 = c ∧ (rowsMatrix st.1).det = m.det ∧ UnitColumns st.1 c) ∨ (st.2 < c ∧ m.det = 0)

theorem elimColumn_keeps_elimInv {m : Matrix (Fin 8) (Fin 8) (ZMod 2)} {c : Nat} (hc : c < 8)
    {st : Vector Byte 8 × Nat} (h : ElimInv m c st) : ElimInv m (c + 1) (elimColumn st c) := by
  obtain ⟨rows, k⟩ := st
  rcases elimColumn_cases rows k c with ⟨heq, hnone⟩ | ⟨q, p, rfl, hqp, hp, heq⟩
  · -- no pivot
    rw [heq]
    rcases h with ⟨rfl, hdet, hunit⟩ | ⟨hlt, hdet⟩
    · exact .inr ⟨Nat.lt_succ_self _, hdet ▸ hunit.det_eq_zero (k := ⟨k, hc⟩) hnone⟩
    · exact .inr ⟨Nat.lt_succ_of_lt hlt, hdet⟩
  · -- a pivot in row `p`
    rw [heq]
    rcases h with ⟨rfl, hdet, hunit⟩ | ⟨hlt, hdet⟩
    · have hpivot : (rows.swap q p)[q].getLsbD q.val = true := by
        rw [Fin.getElem_fin, Vector.getElem_swap_left]
        exact hp
      refine .inl ⟨rfl, ?_, (hunit.swap hqp).clear hpivot⟩
      rw [det_rowsMatrix_clearColumn, det_rowsMatrix_swap, hdet]
    · exact .inr ⟨Nat.succ_lt_succ hlt, hdet⟩

theorem elimInv_foldl (rows : Vector Byte 8) {c : Nat} (hc : c ≤ 8) :
    ElimInv (rowsMatrix rows) c ((List.range c).foldl elimColumn (rows, 0)) := by
  induction c with
  | zero => exact .inl ⟨rfl, rfl, fun i j hj => absurd hj (Nat.not_lt_zero _)⟩
  | succ c ih =>
    rw [List.range_succ, List.foldl_append]
    exact elimColumn_keeps_elimInv hc (ih (Nat.le_of_succ_le hc))

/-- Settles O28: the invariant of the elimination after all eight columns. -/
theorem detParityIsTheDeterminant : Obligations.DetParityIsTheDeterminant := by
  unfold Obligations.DetParityIsTheDeterminant
  intro m
  rw [← rowsMatrix_matRow]
  rcases elimInv_foldl (tabulate (matRow m)) le_rfl with ⟨hrank, hdet, hunit⟩ | ⟨hrank, hdet⟩
  · have hpar : detParity m = true := by rw [detParity, rank, hrank, beq_self_eq_true]
    rw [hpar, if_pos rfl, ← hdet, hunit.det_eq_one]
  · have hpar : detParity m = false := beq_false_of_ne hrank.ne
    rw [hpar, hdet]
    rfl

end Sys2Proof.Machine
end

section
/-! PROOFS. The S-box unit's other commands: DETPAR (O37), VALIDATE (O38) and INVERT (O39). -/

namespace Sys2Proof.Machine

/-! ### Singular matrices (R78, R85) -/

/-- A matrix whose rows have determinant 0 over GF(2) is singular (R78). -/
theorem detParity_eq_false_of_det {m : AffineMatrix} (h : (rowsMatrix (tabulate (matRow m))).det = 0) :
    detParity m = false := by
  by_contra hpar
  have hdet := detParityIsTheDeterminant m
  rw [← rowsMatrix_matRow, h, if_pos (eq_true_of_ne_false hpar)] at hdet
  exact absurd hdet (by decide)

/-- A determinant with two equal rows is 0 (R85). -/
theorem detParity_eq_false_of_matRow_eq {m : AffineMatrix} {r q : Fin 8} (hne : r ≠ q) (h : matRow m r = matRow m q) :
    detParity m = false := by
  refine detParity_eq_false_of_det (Matrix.det_zero_of_row_eq hne (funext fun c => ?_))
  simp only [rowsMatrix_apply, Fin.getElem_fin, getElem_tabulate, h]

/-- Settles O37: the arm writes MINV and its report; the zero matrix is one with two equal rows. -/
theorem detparReportsTheParity : Obligations.DetparReportsTheParity := by
  unfold Obligations.DetparReportsTheParity
  refine ⟨onlyWordOf_of_decode rfl (by decide), fun s => rfl, ?zero, by decide,
    fun m r q => detParity_eq_false_of_matRow_eq⟩
  case zero => exact detParity_eq_false_of_matRow_eq (r := 0) (q := 1) (by decide) (by decide)

/-! ### The number of distinct values of a table (R23, R86) -/

/-- The number of 1 bits, as the size of the finite set of their positions (R9). -/
theorem popcount_eq_card {w : Nat} (v : BitVec w) :
    popcount v = ((Finset.range w).filter fun n => v.getLsbD n = true).card := by
  rw [popcount, ← List.toFinset_card_of_nodup (List.nodup_range.filter _), List.toFinset_filter, List.toFinset_range]

/-- The 1 bits of a table's value set are its values, as numbers. -/
theorem filter_valueSet (t : Table) :
    (Finset.range 256).filter (fun n => (valueSet t).getLsbD n = true) =
      (Finset.univ.image fun i : Fin 256 => t[i]).image BitVec.toNat := by
  ext n
  simp only [Finset.mem_filter, Finset.mem_range, Finset.mem_image, Finset.mem_univ, true_and]
  constructor
  · rintro ⟨hn, hbit⟩
    obtain ⟨x, hx⟩ := (valueSet_getLsbD t ⟨n, hn⟩).1 hbit
    exact ⟨_, ⟨x.toFin, hx⟩, rfl⟩
  · rintro ⟨_, ⟨i, rfl⟩, rfl⟩
    exact ⟨t[i].isLt, (valueSet_getLsbD t t[i]).2 ⟨BitVec.ofFin i, rfl⟩⟩

/-- The count of 1 bits in the value set is the size of the set of values (R23). -/
theorem distinctCount_eq_valueCount (t : Table) : distinctCount t = valueCount t := by
  rw [distinctCount, popcount_eq_card, filter_valueSet, valueCount]
  exact Finset.card_image_of_injective _ fun _ _ => BitVec.eq_of_toNat_eq

/-- DISTINCT is the number of distinct values (R23). -/
theorem distinctField_toNat_eq_valueCount (t : Table) : (distinctField t).toNat = valueCount t :=
  (distinctField_toNat t).trans (distinctCount_eq_valueCount t)

/-- All 256 values occur exactly when no two indices share one (R13, R23). -/
theorem valueCount_eq_iff_permutation (t : Table) : valueCount t = 256 ↔ Permutation t := by
  have hinj : valueCount t = 256 ↔ Function.Injective fun i : Fin 256 => t[i] := by
    rw [← Set.injOn_univ, ← Finset.coe_univ, ← Finset.card_image_iff, Finset.card_fin, valueCount]
  rw [hinj]
  exact ⟨fun h x y hxy => BitVec.eq_of_toFin_eq (h hxy),
    fun h i j hij => congrArg BitVec.toFin (h (BitVec.ofFin i) (BitVec.ofFin j) hij)⟩

/-- BIJ says that DISTINCT is 256 (R23). -/
theorem bijective_iff_distinctField (t : Table) : bijective t = true ↔ distinctField t = 256 := by
  rw [bijective, beq_iff_eq, ← distinctField_toNat, ← BitVec.toNat_inj]
  rfl

/-- BIJ says that the table is a permutation (R13, R23). -/
theorem bijective_iff_permutation (t : Table) : bijective t = true ↔ Permutation t := by
  rw [bijective, beq_iff_eq, distinctCount_eq_valueCount, valueCount_eq_iff_permutation]

/-- Settles O38: the arm writes DISTINCT, BIJ and their report, and each of the two fields is what R23 says of the table. -/
theorem validateCountsDistinctValues : Obligations.ValidateCountsDistinctValues := by
  unfold Obligations.ValidateCountsDistinctValues
  exact ⟨onlyWordOf_of_decode rfl (by decide), fun s => ⟨distinctField s.sbox, bijective s.sbox, rfl,
    distinctField_toNat_eq_valueCount s.sbox, bijective_iff_distinctField s.sbox, bijective_iff_permutation s.sbox⟩⟩

/-! ### The table INVERT builds (R87) -/

/-- One pass of INVERT's loop changes the entry of `t[i]` alone. -/
theorem lookup_invertStep (t acc : Table) (i : Fin 256) (v : Byte) :
    lookup (invertStep t acc i) v = if t[i] = v then BitVec.ofFin i else lookup acc v := by
  simp only [lookup, invertStep, Vector.getElem_set, BitVec.toNat_inj]

/-- Passes over indices that do not map to `v` keep the entry of `v`. -/
theorem lookup_foldl_invertStep_of_forall_ne {t : Table} {v : Byte} {l : List (Fin 256)} (h : ∀ i ∈ l, t[i] ≠ v)
    (acc : Table) : lookup (l.foldl (invertStep t) acc) v = lookup acc v := by
  induction l generalizing acc with
  | nil => rfl
  | cons i l ih =>
    obtain ⟨hi, hl⟩ := List.forall_mem_cons.1 h
    rw [List.foldl_cons, ih hl, lookup_invertStep, if_neg hi]

/-- A value no index maps to keeps the 0 the loop starts from. -/
theorem lookup_invertTable_of_forall_ne {t : Table} {v : Byte} (h : ∀ i : Byte, lookup t i ≠ v) :
    lookup (invertTable t) v = 0 := by
  rw [invertTable, lookup_foldl_invertStep_of_forall_ne fun i _ => h (BitVec.ofFin i), lookup, getElem_tabulate]

/-- The indices run upwards, so the passes after the largest index of a value leave that value's entry. -/
theorem lookup_invertTable_of_largest {t : Table} {i : Byte}
    (h : ∀ j : Byte, i.toNat < j.toNat → lookup t j ≠ lookup t i) : lookup (invertTable t) (lookup t i) = i := by
  obtain ⟨before, after, hsplit⟩ := List.append_of_mem (List.mem_finRange i.toFin)
  have hafter : ∀ j ∈ after, i.toFin < j := by
    have hsorted := List.pairwise_lt_finRange 256
    rw [hsplit, List.pairwise_append, List.pairwise_cons] at hsorted
    obtain ⟨-, ⟨hlt, -⟩, -⟩ := hsorted
    exact hlt
  rw [invertTable, hsplit, List.foldl_append, List.foldl_cons,
    lookup_foldl_invertStep_of_forall_ne fun j hj => h (BitVec.ofFin j) (hafter j hj), lookup_invertStep]
  exact if_pos rfl

/-- INVERT's arm of the dispatch (R87). -/
theorem exec_invert (s : State) :
    exec .invert s = .next { s with invsbox := invertTable s.sbox, err := .none, pending := none } := by
  rw [exec, execInvert, complete]

/-- Settles O39: the arm writes INVSBOX alone, and the two kinds of entry are a lemma each. -/
theorem invertTakesTheLargestIndex : Obligations.InvertTakesTheLargestIndex := by
  unfold Obligations.InvertTakesTheLargestIndex
  exact ⟨onlyWordOf_of_decode rfl (by decide), fun s => ⟨invertTable s.sbox, exec_invert s,
    fun v => lookup_invertTable_of_forall_ne, fun i => lookup_invertTable_of_largest⟩⟩

end Sys2Proof.Machine
end

section
/-! PROOFS. The key schedule: each word of the expansion by the two before it that it is made of (O42), and KEYEXP on a
permutation and on any other table (O43). -/

namespace Sys2Proof.Machine

/-! ### The lanes of one word's `temp` (R90 to R92) -/

@[simp] theorem lane_rotWord (w : Word) (j : Fin 4) : lane (rotWord w) j = lane w (j + 1) := by
  rw [rotWord, word4, lane_packLanes]
  fin_cases j <;> rfl

@[simp] theorem lane_subWord (t : Table) (w : Word) (j : Fin 4) : lane (subWord t w) j = lookup t (lane w j) :=
  lane_packLanes _ j

theorem scheduleTemp_of_ne (t : Table) {i : Nat} (h : i % 4 ≠ 0) (prev : Word) : scheduleTemp t i prev = prev :=
  if_neg h

/-- Every fourth word takes the previous one rotated and substituted, its first byte with the round constant (R92). -/
theorem scheduleTemp_of_eq (t : Table) {i : Nat} (h : i % 4 = 0) (prev : Word) :
    scheduleTemp t i prev = word4 (lookup t (lane prev 1) ^^^ rcon (i / 4 - 1)) (lookup t (lane prev 2))
      (lookup t (lane prev 3)) (lookup t (lane prev 0)) := by
  rw [scheduleTemp, if_pos h]
  simp only [lane_subWord, lane_rotWord]
  rfl

/-! ### The words of the expansion (R92) -/

/-- Later passes of the loop put their words in front and keep the earlier ones. -/
theorem drop_scheduleWords (t : Table) (key : Vector Word 4) (n m : Nat) :
    (scheduleWords t key (n + m)).drop m = scheduleWords t key n := by
  induction m with
  | zero => rfl
  | succ m ih => rw [← Nat.add_assoc, scheduleWords, List.drop_succ_cons, ih]

/-- After `n` passes the newest word is word `n + 3`, and the `k`-th behind it is word `n + 3 - k`. -/
theorem getElem_keyExpansion (key : Vector Word 4) (t : Table) {n i k : Nat} (hn : n ≤ 40) (hi : i + k = n + 3) :
    (keyExpansion key t)[i] = (scheduleWords t key n).getD k 0 := by
  obtain ⟨m, hm⟩ := Nat.exists_eq_add_of_le hn
  have hrev : m + k = 43 - i := by omega
  have hlt : 43 - i < (scheduleWords t key 40).length := by rw [scheduleWords_length]; omega
  rw [← drop_scheduleWords t key n m, ← hm, List.getD_eq_getElem?_getD, List.getElem?_drop, hrev,
    List.getElem?_eq_getElem hlt]
  simp [keyExpansion, scheduleWords_length]

/-- The key fills the first four words (R92). -/
theorem getElem_keyExpansion_key (key : Vector Word 4) (t : Table) (i : Fin 4) :
    (keyExpansion key t)[i.val] = key[i] := by
  rw [getElem_keyExpansion key t (n := 0) (k := 3 - i.val) (by decide) (by omega)]
  fin_cases i <;> rfl

/-- Every later word is the one four before it with `temp` added (R92). -/
theorem getElem_keyExpansion_step (key : Vector Word 4) (t : Table) {i : Nat} (h : 4 ≤ i) (h' : i < 44) :
    (keyExpansion key t)[i] = (keyExpansion key t)[i - 4] ^^^ scheduleTemp t i (keyExpansion key t)[i - 1] := by
  obtain ⟨n, rfl⟩ := Nat.exists_eq_add_of_le' h
  rw [getElem_keyExpansion key t (n := n + 1) (k := 0) (by omega) rfl,
    getElem_keyExpansion key t (n := n) (k := 3) (by omega) (by omega),
    getElem_keyExpansion key t (n := n) (k := 0) (by omega) (by omega)]
  rfl

/-- Settles O42: the recurrence between words, read lane by lane for the two forms of `temp`. -/
theorem keyExpansionRecurrence : Obligations.KeyExpansionRecurrence := by
  unfold Obligations.KeyExpansionRecurrence
  refine fun key t => ⟨getElem_keyExpansion_key key t, fun i h h' => ⟨fun hi j => ?copied, fun hi => ?substituted⟩⟩
  case copied => rw [getElem_keyExpansion_step key t h h', scheduleTemp_of_ne t hi, lane_xor]
  case substituted =>
    rw [getElem_keyExpansion_step key t h h', scheduleTemp_of_eq t hi]
    simp only [lane_xor, lane_word4_zero, lane_word4_one, lane_word4_two, lane_word4_three, and_self]

/-! ### KEYEXP (R93) -/

theorem exec_keyexp_of_permutation {s : State} (h : Permutation s.sbox) :
    exec .keyexp s = .next { s with
      distinct := 256, bij := true, rk := keyExpansion s.key s.sbox, keyv := true, err := .none, pending := none } := by
  have hbij : bijective s.sbox = true := (bijective_iff_permutation s.sbox).2 h
  have hdistinct : distinctField s.sbox = 256 := (bijective_iff_distinctField s.sbox).1 hbij
  rw [exec, execKeyexp, recordBijectivity, hbij, hdistinct]
  rfl

theorem exec_keyexp_of_not_permutation {s : State} (h : ¬ Permutation s.sbox) :
    exec .keyexp s = .next { s with
      distinct := distinctField s.sbox, bij := false, keyv := false, err := .invalidSbox, pending := none } := by
  have hbij : bijective s.sbox = false := Bool.eq_false_iff.2 (mt (bijective_iff_permutation s.sbox).1 h)
  rw [exec, execKeyexp, recordBijectivity, hbij]
  rfl

/-- Settles O43: BIJ says whether the table is a permutation, and each side of that test is a lemma. -/
theorem keyexpExpandsOrReports : Obligations.KeyexpExpandsOrReports := by
  unfold Obligations.KeyexpExpandsOrReports
  exact ⟨onlyWordOf_of_decode rfl (by decide), fun _ => exec_keyexp_of_permutation,
    fun s h => ⟨distinctField s.sbox, distinctField_toNat_eq_valueCount s.sbox, exec_keyexp_of_not_permutation h⟩⟩

end Sys2Proof.Machine
end

section
/-! PROOFS. The commands of the single round transforms (O44 to O50): each stores the transform of the loaded
DIN in DOUT. -/

namespace Sys2Proof.Machine

/-! ### The cells of the state and the bytes of the registers (R95, R96) -/

theorem getElem_gridOf (f : Fin 4 → Fin 4 → Byte) (r c : Fin 4) : (gridOf f)[r][c] = f r c := by
  simp only [gridOf, Fin.getElem_fin, getElem_tabulate]

theorem getElem_load (b : Block) (r c : Fin 4) : (load b)[r][c] = b[r.val + 4 * c.val] :=
  getElem_gridOf _ r c

/-- `Store` undoes `Load`'s numbering of the bytes (R96). -/
theorem getElem_store (g : Grid) (r c : Fin 4) : (store g)[r.val + 4 * c.val] = g[r][c] := by
  have hrow : (r.val + 4 * c.val) % 4 = r.val := by omega
  have hcol : (r.val + 4 * c.val) / 4 = c.val := by omega
  simp only [store, getElem_tabulate, hrow, hcol, Fin.getElem_fin]

/-- Byte `r` of an input register is in row `r`, and the register's number is the column (R29, R95). -/
theorem getElem_load_blockOfWords (ws : Vector Word 4) (r c : Fin 4) :
    (load (blockOfWords ws))[r][c] = lane ws[c] r := by
  have hword : (r.val + 4 * c.val) / 4 = c.val := by omega
  have hlane : (r.val + 4 * c.val) % 4 = r.val := by omega
  rw [getElem_load, getElem_blockOfWords]
  simp only [hword, hlane, Fin.getElem_fin]

/-- Row `r` is byte `r` of the output registers, and the column is the register's number (R30, R96). -/
theorem lane_wordsOfBlock_store (g : Grid) (r c : Fin 4) : lane (wordsOfBlock (store g))[c] r = g[r][c] := by
  rw [← getElem_store, Fin.getElem_fin, lane_wordsOfBlock _ _ c.isLt]
  simp only [Nat.add_comm]

/-! ### The cells each transform makes (R97 to R102) -/

theorem getElem_subBytes (g : Grid) (t : Table) (r c : Fin 4) : (subBytes g t)[r][c] = lookup t g[r][c] :=
  getElem_gridOf _ r c

theorem getElem_shiftRows (g : Grid) (r c : Fin 4) : (shiftRows g)[r][c] = g[r][c + r] :=
  getElem_gridOf _ r c

/-- `InvShiftRows` moves each byte of row `r` on by `r` columns, column indices mod 4 (R98). -/
theorem getElem_invShiftRows_add (g : Grid) (r c : Fin 4) : (invShiftRows g)[r][c + r] = g[r][c] := by
  have hcell : (invShiftRows g)[r][c + r] = g[r][c + r - r] := getElem_gridOf _ r (c + r)
  simpa only [add_sub_cancel_right] using hcell

theorem getElem_mulColumns (q : Vector Byte 4) (g : Grid) (r c : Fin 4) :
    (mulColumns q g)[r][c] =
      gmul q[0 - r] g[(0 : Fin 4)][c] ^^^ gmul q[1 - r] g[(1 : Fin 4)][c] ^^^ gmul q[2 - r] g[(2 : Fin 4)][c] ^^^
        gmul q[3 - r] g[(3 : Fin 4)][c] :=
  getElem_gridOf _ r c

theorem getElem_addRoundKey (g : Grid) (rk : Schedule) (n : Fin 11) (r c : Fin 4) :
    (addRoundKey g rk n)[r][c] = g[r][c] ^^^ lane rk[4 * n.val + c.val] r :=
  getElem_gridOf _ r c

/-- A command whose arm is a single transform of DIN writes DOUT, ERR and BUSY alone (R103 to R109). -/
theorem exec_of_transformDin {i : Instr} {f : Grid → Grid} {s : State} (h : exec i s = .next (transformDin f s)) :
    exec i s = .next
      { s with dout := wordsOfBlock (store (f (load (blockOfWords s.din)))), err := .none, pending := none } := by
  rw [h, transformDin_eq]

/-! ### Substituting each byte (R103, R104) -/

/-- Byte `k` is in cell `[k mod 4][k div 4]` before and after the substitution. -/
theorem getElem_store_subBytes_load (b : Block) (t : Table) (k : Fin 16) :
    (store (subBytes (load b) t))[k] = lookup t b[k] := by
  have hk : k.val % 4 + 4 * (k.val / 4) = k.val := Nat.mod_add_div k.val 4
  have hcell := getElem_store (subBytes (load b) t) ⟨k.val % 4, by omega⟩ ⟨k.val / 4, by omega⟩
  rw [getElem_subBytes, getElem_load] at hcell
  simpa only [hk, Fin.getElem_fin] using hcell

/-- Settles O44: the arm is the transform, and the transform substitutes each byte by itself. -/
theorem subbytesSubstitutesEachByte : Obligations.SubbytesSubstitutesEachByte := by
  unfold Obligations.SubbytesSubstitutesEachByte
  refine ⟨onlyWordOf_of_decode rfl (by decide), fun s => ⟨_, exec_of_transformDin rfl, fun k => ?_⟩⟩
  rw [blockOfWords_wordsOfBlock, getElem_store_subBytes_load]

/-- Settles O45: as O44, with the other table. -/
theorem invsubbytesSubstitutesEachByte : Obligations.InvsubbytesSubstitutesEachByte := by
  unfold Obligations.InvsubbytesSubstitutesEachByte
  refine ⟨onlyWordOf_of_decode rfl (by decide), fun s => ⟨_, exec_of_transformDin rfl, fun k => ?_⟩⟩
  rw [blockOfWords_wordsOfBlock, getElem_store_subBytes_load]

/-! ### Rotating the rows (R105, R106) -/

/-- Settles O46: cell `[r][c]` of the stored state is the loaded cell `[r][c + r]`, column indices mod 4. -/
theorem shiftrowsRotatesRowsLeft : Obligations.ShiftrowsRotatesRowsLeft := by
  unfold Obligations.ShiftrowsRotatesRowsLeft
  refine ⟨onlyWordOf_of_decode rfl (by decide), fun s => ⟨_, exec_of_transformDin rfl, fun r c => ?_⟩⟩
  rw [blockOfWords_wordsOfBlock, getElem_store, getElem_shiftRows, getElem_load]
  rfl

/-- Settles O47: the loaded cell `[r][c]` goes to the stored cell `[r][c + r]`, column indices mod 4. -/
theorem invshiftrowsRotatesRowsRight : Obligations.InvshiftrowsRotatesRowsRight := by
  unfold Obligations.InvshiftrowsRotatesRowsRight
  refine ⟨onlyWordOf_of_decode rfl (by decide), fun s => ⟨_, exec_of_transformDin rfl, fun r c => ?_⟩⟩
  rw [blockOfWords_wordsOfBlock, ← getElem_load, ← getElem_invShiftRows_add, ← getElem_store]
  rfl

/-! ### Mixing the columns (R107, R108) -/

/-- Each byte of an output register is the product of one row of the circulant matrix and the input register (R99). -/
theorem lane_store_mulColumns_load (q : Vector Byte 4) (ws : Vector Word 4) (r c : Fin 4) :
    lane (wordsOfBlock (store (mulColumns q (load (blockOfWords ws)))))[c] r =
      gmul q[0 - r] (lane ws[c] 0) ^^^ gmul q[1 - r] (lane ws[c] 1) ^^^ gmul q[2 - r] (lane ws[c] 2) ^^^
        gmul q[3 - r] (lane ws[c] 3) := by
  rw [lane_wordsOfBlock_store, getElem_mulColumns]
  simp only [getElem_load_blockOfWords]

/-- Settles O48: the four rows of the circulant matrix of the forward coefficients. -/
theorem mixcolumnsMixesEachColumn : Obligations.MixcolumnsMixesEachColumn := by
  unfold Obligations.MixcolumnsMixesEachColumn
  refine ⟨onlyWordOf_of_decode rfl (by decide), fun s => ⟨_, exec_of_transformDin rfl, fun c => ?_⟩⟩
  have hrow (r : Fin 4) := lane_store_mulColumns_load mixRow s.din r c
  exact ⟨hrow 0, hrow 1, hrow 2, hrow 3⟩

/-- Settles O49: the four rows of the circulant matrix of the inverse coefficients. -/
theorem invmixcolumnsMixesEachColumn : Obligations.InvmixcolumnsMixesEachColumn := by
  unfold Obligations.InvmixcolumnsMixesEachColumn
  refine ⟨onlyWordOf_of_decode rfl (by decide), fun s => ⟨_, exec_of_transformDin rfl, fun c => ?_⟩⟩
  have hrow (r : Fin 4) := lane_store_mulColumns_load invMixRow s.din r c
  exact ⟨hrow 0, hrow 1, hrow 2, hrow 3⟩

/-! ### Adding a round key (R109) -/

theorem lane_store_addRoundKey_load (ws : Vector Word 4) (rk : Schedule) (n : Fin 11) (r c : Fin 4) :
    lane (wordsOfBlock (store (addRoundKey (load (blockOfWords ws)) rk n)))[c] r =
      lane ws[c] r ^^^ lane rk[4 * n.val + c.val] r := by
  rw [lane_wordsOfBlock_store, getElem_addRoundKey, getElem_load_blockOfWords]

theorem requireKey_of_keyv (k : State → State) {s : State} (h : s.keyv = true) : requireKey k s = k s :=
  if_pos h

theorem requireKey_of_not_keyv (k : State → State) {s : State} (h : s.keyv = false) :
    requireKey k s = { s with err := .noKey, pending := none } :=
  if_neg (Bool.eq_false_iff.1 h)

/-- A round of the schedule goes on to the test of KEYV (R109). -/
theorem exec_addroundkey_of_le {n : BitVec 8} (s : State) (h : n.toNat ≤ 10) :
    exec (.addroundkey n) s =
      .next (requireKey (transformDin fun g => addRoundKey g s.rk ⟨n.toNat, Nat.lt_succ_of_le h⟩) s) := by
  rw [exec, execAddroundkey, dif_pos (Nat.lt_succ_of_le h)]

/-- Settles O50: the range of `n` is tested first (`exec_addroundkey_of_lt`, `exec_addroundkey_of_le`), then KEYV. -/
theorem addroundkeyXorsTheRoundKey : Obligations.AddroundkeyXorsTheRoundKey := by
  unfold Obligations.AddroundkeyXorsTheRoundKey
  refine ⟨by decide, fun s n => exec_addroundkey_of_lt s, fun s n hn hkey => ?noKey, fun s n hn hkey => ?withKey⟩
  case noKey => rw [exec_addroundkey_of_le s hn, requireKey_of_not_keyv _ hkey]
  case withKey =>
    have hexec := exec_addroundkey_of_le s hn
    rw [requireKey_of_keyv _ hkey] at hexec
    exact ⟨_, exec_of_transformDin hexec, fun c r => lane_store_addRoundKey_load s.din s.rk ⟨n.toNat, _⟩ r c⟩

end Sys2Proof.Machine
end

section
/-! PROOFS. Block encryption and decryption (O52, O53): the state between two rounds, and the commands that run them. -/

namespace Sys2Proof.Machine

/-! ### The states between the rounds (R110, R111) -/

/-- The state of Cipher after round `n`, round 0 being the first addition of the key (R110). -/
def cipherState (b : Block) (rk : Schedule) (t : Table) : Nat → Grid
  | 0 => addRoundKey (load b) rk 0
  | n + 1 => cipherRound rk t (cipherState b rk t n) (Fin.ofNat 11 (n + 1))

/-- The state of InvCipher after `k` of its rounds 9 down to 1; round `n` is the one that follows `9 - n` others (R111). -/
def invCipherState (b : Block) (rk : Schedule) (t : Table) : Nat → Grid
  | 0 => addRoundKey (load b) rk 10
  | k + 1 => invCipherRound rk t (invCipherState b rk t k) (Fin.ofNat 11 (9 - k))

/-- Round 10 starts from the state after round 9 and mixes no columns (R110). -/
theorem cipher_eq_lastRound (b : Block) (rk : Schedule) (t : Table) :
    cipher b rk t = store (addRoundKey (shiftRows (subBytes (cipherState b rk t 9) t)) rk 10) := rfl

/-- The last key addition starts from the state after all nine rounds and mixes no columns (R111). -/
theorem invCipher_eq_lastRound (b : Block) (rk : Schedule) (t : Table) :
    invCipher b rk t = store (addRoundKey (subBytes (invShiftRows (invCipherState b rk t 9)) t) rk 0) := rfl

theorem cipherState_eq_cipherRound (b : Block) (rk : Schedule) (t : Table) {n : Fin 11} (h : 1 ≤ n.val) :
    cipherState b rk t n.val = cipherRound rk t (cipherState b rk t (n.val - 1)) n := by
  obtain ⟨m, hm⟩ := Nat.exists_eq_add_of_le' h
  have hround : Fin.ofNat 11 (m + 1) = n := by rw [← hm, Fin.ofNat_val_eq_self]
  rw [hm, cipherState, hround, Nat.add_sub_cancel]

theorem invCipherState_eq_invCipherRound (b : Block) (rk : Schedule) (t : Table) {n : Fin 11} (h : n.val ≤ 9) :
    invCipherState b rk t (10 - n.val) = invCipherRound rk t (invCipherState b rk t (10 - (n.val + 1))) n := by
  have hround : Fin.ofNat 11 (9 - (9 - n.val)) = n := by rw [Nat.sub_sub_self h, Fin.ofNat_val_eq_self]
  have hafter : 10 - n.val = 9 - n.val + 1 := by omega
  have hbefore : 10 - (n.val + 1) = 9 - n.val := by omega
  rw [hafter, hbefore, invCipherState, hround]

/-! ### ENCRYPT (R112) -/

theorem exec_encrypt_of_not_keyv {s : State} (h : s.keyv = false) :
    exec .encrypt s = .next { s with err := .noKey, pending := none } := by
  rw [exec, execEncrypt, requireKey_of_not_keyv _ h]

theorem exec_encrypt_of_keyv {s : State} (h : s.keyv = true) :
    exec .encrypt s = .next { s with
      dout := wordsOfBlock (cipher (blockOfWords s.din) s.rk s.sbox), err := .none, pending := none } := by
  rw [exec, execEncrypt, requireKey_of_keyv _ h]
  rfl

/-- Settles O52: the states `g` are those after each round. -/
theorem encryptRunsTheTenRounds : Obligations.EncryptRunsTheTenRounds := by
  unfold Obligations.EncryptRunsTheTenRounds
  refine ⟨onlyWordOf_of_decode rfl (by decide), fun _ => exec_encrypt_of_not_keyv, fun s hkey =>
    ⟨cipherState (blockOfWords s.din) s.rk s.sbox, _, exec_encrypt_of_keyv hkey, rfl,
      fun _ hn _ => cipherState_eq_cipherRound _ _ _ hn, ?lastRound⟩⟩
  case lastRound => rw [blockOfWords_wordsOfBlock, cipher_eq_lastRound]

/-! ### DECRYPT (R113) -/

theorem exec_decrypt_of_not_keyv {s : State} (h : s.keyv = false) :
    exec .decrypt s = .next { s with err := .noKey, pending := none } := by
  rw [exec, execDecrypt, requireKey_of_not_keyv _ h]

theorem exec_decrypt_of_keyv {s : State} (h : s.keyv = true) :
    exec .decrypt s = .next { s with
      dout := wordsOfBlock (invCipher (blockOfWords s.din) s.rk s.invsbox), err := .none, pending := none } := by
  rw [exec, execDecrypt, requireKey_of_keyv _ h]
  rfl

/-- Settles O53: `g n` is the state after `10 - n` of the rounds. -/
theorem decryptRunsTheRoundsInReverse : Obligations.DecryptRunsTheRoundsInReverse := by
  unfold Obligations.DecryptRunsTheRoundsInReverse
  refine ⟨onlyWordOf_of_decode rfl (by decide), fun _ => exec_decrypt_of_not_keyv, fun s hkey =>
    ⟨fun n => invCipherState (blockOfWords s.din) s.rk s.invsbox (10 - n), _, exec_decrypt_of_keyv hkey, rfl,
      fun _ _ hn => invCipherState_eq_invCipherRound _ _ _ hn, ?lastRound⟩⟩
  case lastRound => rw [blockOfWords_wordsOfBlock, invCipher_eq_lastRound]

end Sys2Proof.Machine
end

section
/-! PROOFS. The system command (O30): NOP completes with NONE and does nothing else. -/

namespace Sys2Proof.Machine

/-- NOP is the completion alone (R115). -/
theorem exec_nop (s : State) : exec .nop s = .next { s with err := .none, pending := none } := by
  rw [exec, execNop, complete]

/-- Settles O30: NOP's word is the only one with its OP (`onlyWordOf_of_decode`), and its arm is the completion with NONE
(`exec_nop`). -/
theorem nopOnlyClearsErr : Obligations.NopOnlyClearsErr := by
  unfold Obligations.NopOnlyClearsErr
  exact ⟨onlyWordOf_of_decode rfl (by decide), exec_nop⟩

end Sys2Proof.Machine
end

section
/-! PROOFS. The host's side of the protocol: the keys and S-boxes it refuses or loads (O55), and its padding (O56, O57). -/

namespace Sys2Proof.Machine

/-! ### Unpadding by the last byte (R121) -/

section
variable {h : HostParams} {q : List Byte} {n : Byte} (hlast : q.getLast? = some n)
include hlast

/-- Unpadding in terms of the last byte of a buffer that has one. -/
theorem unpad_eq_ite :
    unpad h q =
      if h.strictUnpad = true ∧ ¬ (1 ≤ n.toNat ∧ n.toNat ≤ 16) then .error .invalidPadding
      else if 1 ≤ n.toNat ∧ n.toNat ≤ q.length then .ok (q.take (q.length - n.toNat))
      else h.unpadDegenerate q := by
  rw [unpad, List.getLastD_eq_getLast?, hlast, Option.getD_some]

/-- Strict unpadding refuses a count outside 1..16. -/
theorem unpad_of_strict (hstrict : h.strictUnpad = true) (hn : n.toNat = 0 ∨ 16 < n.toNat) :
    unpad h q = .error .invalidPadding := by
  rw [unpad_eq_ite hlast]
  exact if_pos ⟨hstrict, by omega⟩

/-- A count the mode admits and the buffer can give is taken off. -/
theorem unpad_of_le_length (hmode : h.strictUnpad = false ∨ n.toNat ≤ 16) (hpos : 1 ≤ n.toNat)
    (hle : n.toNat ≤ q.length) : unpad h q = .ok (q.take (q.length - n.toNat)) := by
  rw [unpad_eq_ite hlast]
  have hadmitted : ¬ (h.strictUnpad = true ∧ ¬ (1 ≤ n.toNat ∧ n.toNat ≤ 16)) := by
    rintro ⟨hstrict, hrange⟩
    rcases hmode with hlax | hle16
    · exact absurd hstrict (Bool.eq_false_iff.1 hlax)
    · exact hrange ⟨hpos, hle16⟩
  exact (if_neg hadmitted).trans (if_pos ⟨hpos, hle⟩)

/-- Without strict unpadding, a count of 0 or more than the buffer has is the OPEN case. -/
theorem unpad_of_degenerate (hlax : h.strictUnpad = false) (hn : n.toNat = 0 ∨ q.length < n.toNat) :
    unpad h q = h.unpadDegenerate q := by
  rw [unpad_eq_ite hlast]
  exact (if_neg fun hstrict => absurd hstrict.1 (Bool.eq_false_iff.1 hlax)).trans (if_neg (by omega))

end

/-- Settles O57: a lemma for each of the three clauses of R121. -/
theorem unpadFollowsTheLastByte : Obligations.UnpadFollowsTheLastByte := by
  unfold Obligations.UnpadFollowsTheLastByte
  exact fun h q n _ hlast => ⟨unpad_of_strict hlast, unpad_of_le_length hlast, unpad_of_degenerate hlast⟩

/-! ### Padding (R120) -/

/-- The count of added bytes, at most 16, is the value of each of them. -/
theorem toNat_padByte (p : List Byte) : (BitVec.ofNat 8 (16 - p.length % 16)).toNat = 16 - p.length % 16 := by
  rw [BitVec.toNat_ofNat, Nat.mod_eq_of_lt (by omega)]

theorem length_pad (p : List Byte) : (pad p).length = p.length + (16 - p.length % 16) := by
  rw [pad, List.length_append, List.length_replicate]

/-- What padding adds, from the end of the buffer on. -/
theorem drop_pad (p : List Byte) :
    (pad p).drop p.length = List.replicate (16 - p.length % 16) (BitVec.ofNat 8 (16 - p.length % 16)) := by
  rw [pad, List.drop_left]

theorem take_pad (p : List Byte) : (pad p).take p.length = p := by
  rw [pad, List.take_left]

/-- At least one byte is added, so the last byte is the count. -/
theorem getLast?_pad (p : List Byte) : (pad p).getLast? = some (BitVec.ofNat 8 (16 - p.length % 16)) := by
  have hcount : 16 - p.length % 16 ≠ 0 := by omega
  rw [pad, List.getLast?_append, List.getLast?_replicate, if_neg hcount, Option.some_or]

/-- Strict or not, the count padding ends in is in 1..16 and within the buffer, so it is taken off. -/
theorem unpad_pad (h : HostParams) (p : List Byte) : unpad h (pad p) = .ok p := by
  have hn := toNat_padByte p
  have hlen := length_pad p
  rw [unpad_of_le_length (getLast?_pad p) (.inr (by omega)) (by omega) (by omega), hn, hlen, Nat.add_sub_cancel, take_pad]

/-- Settles O56: the length, the kept prefix and the added bytes are read off `pad`, and `unpad_pad` takes them off. -/
theorem unpadUndoesPad : Obligations.UnpadUndoesPad := by
  unfold Obligations.UnpadUndoesPad
  refine fun h p => ⟨length_pad p, ?multiple, List.prefix_append _ _, ?count, unpad_pad h p⟩
  case multiple =>
    rw [length_pad]
    omega
  case count =>
    intro b hb
    rw [drop_pad] at hb
    rw [List.eq_of_mem_replicate hb, toNat_padByte]

/-! ### Keys and S-boxes handed to the host (R117, R118) -/

/-- Elements that stand for the bytes of a table are loaded as that table. -/
theorem loadSboxScript_of_entries {xs : List SboxElement} {t : Table} (h : xs.map entryOf = t.toList.map some) :
    loadSboxScript xs = .ok (ldsbox t ++ execScript .validate) := by
  have hlen : xs.length = 256 := by simpa using congrArg List.length h
  have hentry (i : Nat) (hi : i < 256) : entryOf (xs[i]'(by omega)) = some t[i] := by
    simpa [hi, hlen] using congrArg (·[i]?) h
  have hall : xs.all (fun x => (entryOf x).isSome) = true := by
    rw [List.all_eq_true]
    intro x hx
    obtain ⟨i, hi, rfl⟩ := List.getElem_of_mem hx
    rw [hentry i (by omega), Option.isSome_some]
  have htable : (tabulate fun i => (entryOf (xs[i.val]'(by omega))).getD 0) = t := by
    ext i hi
    rw [getElem_tabulate, hentry i hi, Option.getD_some]
  rw [loadSboxScript, dif_pos ⟨hlen, hall⟩, htable]

/-- An element that stands for no byte is refused, whatever the length. -/
theorem loadSboxScript_of_mem {xs : List SboxElement} {x : SboxElement} (hx : x ∈ xs) (h : entryOf x = none) :
    loadSboxScript xs = .error .invalidSbox := by
  refine dif_neg fun hall => ?_
  have hsome := List.all_eq_true.1 hall.2 x hx
  rw [h] at hsome
  exact absurd hsome Bool.false_ne_true

theorem entryOf_integer_eq_none {n : Int} (h : n < 0 ∨ 255 < n) : entryOf (.integer n) = none :=
  if_neg (by omega)

/-- Settles O55: the refused keys and S-boxes by the guards, the loaded ones by the entries they stand for, and VALIDATE's
report by `bijective_iff_permutation`. -/
theorem hostChecksItsInputs : Obligations.HostChecksItsInputs := by
  unfold Obligations.HostChecksItsInputs
  refine ⟨fun k hk => dif_neg hk, fun k => dif_pos k.length_toList, ?refused, ?loaded, ?validated, rfl, fun _ => rfl⟩
  case refused =>
    rintro xs (hlen | hmem | ⟨n, hmem, hn⟩)
    · exact dif_neg fun h => hlen h.1
    · exact loadSboxScript_of_mem hmem entryOf_notInteger
    · exact loadSboxScript_of_mem hmem (entryOf_integer_eq_none hn)
  case loaded =>
    intro t
    refine loadSboxScript_of_entries ?_
    rw [List.map_map]
    exact List.map_congr_left fun b _ => entryOf_byte b
  case validated => exact fun s => ⟨_, rfl, bijective_iff_permutation s.sbox⟩

end Sys2Proof.Machine
end

section
/-! PROOFS. Decoding undoes encoding and encoding undoes decoding (O1), and the listed command words (O2). -/

namespace Sys2Proof

/-! ### The opcode map's row for a command (R58, R59) -/

/-- A round below 16 is read back from its four bits (R58). -/
theorem setWidth_setWidth_of_lt {n : BitVec 8} (h : n.toNat < 16) : (n.setWidth 4).setWidth 8 = n := by
  have hbyte := n.isLt
  apply BitVec.eq_of_toNat_eq
  rw [BitVec.toNat_setWidth, BitVec.toNat_setWidth, Nat.mod_eq_of_lt h, Nat.mod_eq_of_lt hbyte]

theorem commandAt_opcodeOf {i : Instr} (h : WellFormed i) : commandAt (opcodeOf i) (argOf i) = some i := by
  cases i with
  | addroundkey n =>
    have hn : n.toNat < 16 := by simpa [WellFormed, Instr.wellFormed] using h
    exact congrArg (fun m => some (Instr.addroundkey m)) (setWidth_setWidth_of_lt hn)
  | nop | construct | detpar | validate | invert | keyexp | encrypt | decrypt | subbytes | invsubbytes | shiftrows
  | invshiftrows | mixcolumns | invmixcolumns | gfinv | gfmul | affine | affinv => rfl

/-- Only ADDROUNDKEY has an ARG (R57, R58). -/
theorem opcodeOf_of_argOf_ne_zero {i : Instr} (h : argOf i ≠ 0) : opcodeOf i = 0x26 := by
  cases i with
  | addroundkey n => rfl
  | nop | construct | detpar | validate | invert | keyexp | encrypt | decrypt | subbytes | invsubbytes | shiftrows
  | invshiftrows | mixcolumns | invmixcolumns | gfinv | gfmul | affine | affinv => exact absurd rfl h

/-- The map takes ARG for the round of ADDROUNDKEY, and answers no other command that has an operand (R58, R59). -/
theorem commandAt_cases {op : Byte} {arg : BitVec 4} {i : Instr} (h : commandAt op arg = some i) :
    (op = 0x26 ∧ i = .addroundkey (arg.setWidth 8)) ∨ (op ≠ 0x26 ∧ WellFormed i ∧ argOf i = 0) := by
  unfold commandAt at h
  split at h <;> cases h
  case h_15 hop => exact .inl ⟨BitVec.eq_of_toNat_eq hop, rfl⟩
  all_goals
    rename_i hop
    exact .inr ⟨fun hne => absurd (hne ▸ hop) (by decide), rfl, rfl⟩

/-! ### The round trips -/

/-- Encoding then decoding a word. -/
theorem decodeWord_encode {i : Instr} (h : WellFormed i) : decodeWord (encode i) = .ok i := by
  obtain ⟨hop, harg, hrsv⟩ := Laws.EncodesFields.of_fields i
  rw [decodeWord_eq_ok_iff, hop, harg]
  exact ⟨commandAt_opcodeOf h, hrsv, opcodeOf_of_argOf_ne_zero⟩

/-- The four bytes of a word, in lane order, are the word (R43). -/
theorem word4_lanes (w : Word) :
    Machine.word4 (Machine.lane w 0) (Machine.lane w 1) (Machine.lane w 2) (Machine.lane w 3) = w :=
  Machine.word_ext_lanes fun j => by fin_cases j <;> simp

/-- Encoding then decoding bytes leaves what follows the word. -/
theorem decode_encodeBytes_append {i : Instr} (h : WellFormed i) (rest : List Byte) :
    decode (encodeBytes i ++ rest) = .ok (i, rest) := by
  simp only [encodeBytes, List.cons_append, List.nil_append, decode, word4_lanes, decodeWord_encode h]

/-- Every word that decodes is the encoding of a well-formed command: OP is the command's by the map, RSV is 0, and ARG is the
round of ADDROUNDKEY or 0. -/
theorem wellFormed_and_encode_of_decodeWord {w : Word} {i : Instr} (h : decodeWord w = .ok i) :
    WellFormed i ∧ encode i = w := by
  obtain ⟨hmap, hrsv, hround⟩ := (decodeWord_eq_ok_iff w i).1 h
  obtain ⟨hop, harg, hrsv'⟩ := Laws.EncodesFields.of_fields i
  have hfields : WellFormed i ∧ argOf i = argField w := by
    rcases commandAt_cases hmap with ⟨-, rfl⟩ | ⟨hne, hwf, hzero⟩
    · have hlt := (argField w).isLt
      refine ⟨?_, BitVec.eq_of_toNat_eq ?_⟩
      · simp [WellFormed, Instr.wellFormed]
        omega
      · simp [argOf]
    · exact ⟨hwf, hzero.trans (by_contra fun harg' => hne (hround (Ne.symm harg')))⟩
  exact ⟨hfields.1, word_ext_fields (hop.trans (opcodeOf_of_commandAt hmap)) (harg.trans hfields.2) (hrsv'.trans hrsv.symm)⟩

/-- Settles O1: the three fields of a word decide how it decodes, and a command's word has the fields of its row. -/
theorem encodingIsOneToOne : Obligations.EncodingIsOneToOne := by
  unfold Obligations.EncodingIsOneToOne
  exact ⟨fun _ h => ⟨decodeWord_encode h, decode_encodeBytes_append h⟩, fun _ _ => wellFormed_and_encode_of_decodeWord⟩

/-- Settles O2: each listed word is the encoding of its command, which decoding gives back. -/
theorem commandWordsDecodeAsListed : Obligations.CommandWordsDecodeAsListed := by
  unfold Obligations.CommandWordsDecodeAsListed
  have hdec (i : Instr) (hwf : i.wellFormed = true) (w : Word) (hw : encode i = w) : decodeWord w = .ok i :=
    hw ▸ decodeWord_encode hwf
  exact ⟨hdec .nop rfl _ rfl, hdec .construct rfl _ rfl, hdec .keyexp rfl _ rfl, hdec .encrypt rfl _ rfl,
    hdec .subbytes rfl _ rfl, hdec (.addroundkey 1) rfl _ rfl, hdec (.addroundkey 10) rfl _ rfl, hdec .gfmul rfl _ rfl⟩

end Sys2Proof
end

section
/-! PROOFS. What a performed command can do, by the kind of command: every command completes (O6), and one refused with
NO_KEY, ILLEGAL_CMD or ILLEGAL_ARG has written only ERR and BUSY (O15). -/

namespace Sys2Proof.Machine

/-- Settles O6: `exec_writes` gives the state a command completes, and every field R60 does not list is the one before. -/
theorem everyCommandCompletes : Obligations.EveryCommandCompletes := by
  unfold Obligations.EveryCommandCompletes
  intro i s
  obtain ⟨c, t, hexec, ht⟩ := exec_writes i s
  refine ⟨complete c t, hexec, rfl, ?_⟩
  rw [ht]
  exact ⟨rfl, rfl, rfl, rfl, rfl, rfl, rfl, rfl, rfl, rfl, rfl, rfl, rfl⟩

/-- What a command leaves, by what it writes beside ERR and BUSY: nothing when it is refused, a result no flag depends on,
MINV, the bijectivity record, or the table or schedule KEYV speaks of. `exec` read backwards (`exec_moves`). -/
inductive ExecMoves (s : State) : Instr → State → Prop where
  | refused {i : Instr} (c : Err) : ExecMoves s i (raiseErr c s)
  | result {i : Instr} (d : Vector Word 4) (v : Byte) (u : Table) :
      ExecMoves s i (complete .none { s with dout := d, gfres := v, invsbox := u })
  | detpar (b : Bool) : ExecMoves s .detpar (complete (singularCode b) { s with minv := b })
  | validate : ExecMoves s .validate (complete (sboxCode (bijective s.sbox)) (recordBijectivity s.sbox s))
  | construct (t : Table) (b : Bool) : ExecMoves s .construct
      (complete (singularCode b) (recordBijectivity t { s with sbox := t, minv := b, keyv := false }))
  | keyexp (h : Permutation s.sbox) : ExecMoves s .keyexp
      (complete .none { recordBijectivity s.sbox s with rk := keyExpansion s.key s.sbox, keyv := true })
  | keyexpFails (h : ¬ Permutation s.sbox) : ExecMoves s .keyexp
      (complete .invalidSbox { recordBijectivity s.sbox s with keyv := false })

theorem requireKey_moves (i : Instr) (s : State) {k : State → State} (h : ExecMoves s i (k s)) :
    ExecMoves s i (requireKey k s) := by
  rcases requireKey_cases k s with ⟨-, hk⟩ | ⟨-, hk⟩
  · rwa [hk]
  · exact hk ▸ .refused .noKey

/-- A command's own meaning is one of those moves. -/
theorem exec_moves {i : Instr} {s t : State} (h : exec i s = .next t) : ExecMoves s i t := by
  cases i with
  | keyexp =>
    simp only [exec, execKeyexp, Host.Outcome.next.injEq] at h
    subst h
    split
    next hb => exact .keyexp ((bijective_iff_permutation s.sbox).1 hb)
    next hb => exact .keyexpFails fun hp => hb ((bijective_iff_permutation s.sbox).2 hp)
  | addroundkey n =>
    simp only [exec, execAddroundkey, Host.Outcome.next.injEq] at h
    subst h
    split
    · exact requireKey_moves _ s (.result _ s.gfres s.invsbox)
    · exact .refused .illegalArg
  | encrypt => cases h; exact requireKey_moves _ s (.result _ s.gfres s.invsbox)
  | decrypt => cases h; exact requireKey_moves _ s (.result _ s.gfres s.invsbox)
  | construct => cases h; exact .construct _ _
  | detpar => cases h; exact .detpar _
  | validate => cases h; exact .validate
  | nop => cases h; exact .result s.dout s.gfres s.invsbox
  | invert =>
    rw [exec_invert, Host.Outcome.next.injEq] at h
    generalize invertTable s.sbox = u at h
    exact h ▸ .result s.dout s.gfres u
  | subbytes | invsubbytes | shiftrows | invshiftrows | mixcolumns | invmixcolumns =>
    cases h
    exact .result _ s.gfres s.invsbox
  | gfinv | gfmul | affine | affinv =>
    cases h
    exact .result s.dout _ s.invsbox

/-- Performing a word is refusing it, or a move of the command it decodes to (R61, R63). -/
theorem perform_moves {w : Word} {s t : State} (h : perform w s = .next t) :
    t = illegalCommand s ∨ ∃ i, decodeWord w = .ok i ∧ ExecMoves s i t := by
  unfold perform at h
  split at h
  next i hdec => exact .inr ⟨i, hdec, exec_moves h⟩
  next => cases h; exact .inl rfl

/-- The codes of R130: a command that ends with one was refused, since every other move ends with NONE, SINGULAR_MATRIX or
INVALID_SBOX. -/
theorem ExecMoves.eq_of_refusal {s t : State} {i : Instr} (h : ExecMoves s i t)
    (herr : t.err = .noKey ∨ t.err = .illegalCmd ∨ t.err = .illegalArg) :
    t = { s with err := t.err, pending := none } := by
  cases h with
  | refused c => rfl
  | result | keyexp | keyexpFails => simp at herr
  | detpar b | construct _ b => cases b <;> simp [singularCode] at herr
  | validate => cases hb : bijective s.sbox <;> simp [sboxCode, hb] at herr

/-- Settles O15: an illegal word is refused by `perform`, and a command with one of the three codes by its own test. -/
theorem refusedCommandsWriteOnlyErr : Obligations.RefusedCommandsWriteOnlyErr := by
  unfold Obligations.RefusedCommandsWriteOnlyErr
  intro w s t h herr
  rcases perform_moves h with rfl | ⟨i, -, hmove⟩
  · rfl
  · exact hmove.eq_of_refusal herr

end Sys2Proof.Machine
end

section
/-! PROOFS. The invariant holds after reset (O11) and is kept by every step (O12); KEYV changes only as R22 lists (O13). -/

namespace Sys2Proof.Machine

/-! ### The invariant after a command (R22, R23) -/

/-- DISTINCT and BIJ of one table agree (R23). -/
theorem bijectivityRecord_recordBijectivity (t : Table) (s : State) : BijectivityRecord (recordBijectivity t s) := by
  have hle : distinctCount t ≤ 256 := popcount_le (valueSet t)
  rw [BijectivityRecord, recordBijectivity_bij, recordBijectivity_distinct, distinctField_toNat, bijective]
  exact ⟨rfl, hle⟩

theorem pendingIsCmd_of_pending_eq_none {s : State} (h : s.pending = none) : PendingIsCmd s := by
  intro p hp
  simp [h] at hp

/-- With KEYV = 0 there is no schedule to be current. -/
theorem scheduleCurrent_of_not_keyv {s : State} (h : s.keyv = false) : ScheduleCurrent s := by
  intro hk
  simp [h] at hk

theorem ExecMoves.inv {s t : State} {i : Instr} (h : ExecMoves s i t) (hs : Inv s) : Inv t := by
  obtain ⟨hsched, -, hrecord⟩ := hs
  cases h with
  | refused | result | detpar => exact ⟨hsched, pendingIsCmd_of_pending_eq_none rfl, hrecord⟩
  | validate => exact ⟨hsched, pendingIsCmd_of_pending_eq_none rfl, bijectivityRecord_recordBijectivity _ s⟩
  | construct u =>
    exact ⟨scheduleCurrent_of_not_keyv rfl, pendingIsCmd_of_pending_eq_none rfl, bijectivityRecord_recordBijectivity u s⟩
  | keyexp hperm =>
    exact ⟨fun _ => ⟨rfl, hperm⟩, pendingIsCmd_of_pending_eq_none rfl, bijectivityRecord_recordBijectivity _ s⟩
  | keyexpFails =>
    exact ⟨scheduleCurrent_of_not_keyv rfl, pendingIsCmd_of_pending_eq_none rfl,
      bijectivityRecord_recordBijectivity _ s⟩

theorem perform_keeps_inv {w : Word} {s t : State} (h : perform w s = .next t) (hs : Inv s) : Inv t := by
  rcases perform_moves h with rfl | ⟨i, -, hmove⟩
  · exact (ExecMoves.refused (i := .nop) .illegalCmd).inv hs
  · exact hmove.inv hs

/-! ### The invariant after a move of the outside -/

/-- A write of KEY or SBOX clears KEYV, a write of CMD is latched as the pending word, and the other registers are not in the
invariant (R22, R47, R62). -/
theorem writeReg_keeps_inv (r : Reg) (v : Word) {s : State} (hs : Inv s) : Inv (writeReg r v s) := by
  obtain ⟨hsched, hpend, hrecord⟩ := hs
  cases r with
  | key | sbox => exact ⟨scheduleCurrent_of_not_keyv rfl, hpend, hrecord⟩
  | cmd => exact ⟨hsched, fun p hp => by cases hp; rfl, hrecord⟩
  | id | status | din | dout | mat0 | mat1 | gfop | gfres | invsbox | rk => exact ⟨hsched, hpend, hrecord⟩

theorem busWrite_keeps_inv (r : Reg) (v : Word) {s : State} (hs : Inv s) : Inv (busWrite r v s) := by
  rcases busWrite_cases r v s with ⟨-, h⟩ | ⟨-, h⟩
  · exact h ▸ hs
  · exact h ▸ writeReg_keeps_inv r v hs

theorem busRead_keeps_inv (r : Reg) {s : State} (hs : Inv s) : Inv (busRead r s).2 := by
  rcases busRead_state r s with h | h
  · rwa [h]
  · rw [h]
    exact hs

theorem pollStatus_keeps_inv (rest : List Input) {s : State} (hs : Inv s) : Inv (pollStatus rest s) := by
  unfold pollStatus
  split <;> exact hs

/-- A pending command abandoned (R136). -/
theorem assertReset_keeps_inv {s : State} (hs : Inv s) : Inv (assertReset s) := by
  obtain ⟨hsched, -, hrecord⟩ := hs
  exact ⟨hsched, pendingIsCmd_of_pending_eq_none rfl, hrecord⟩

theorem HostMoves.inv {s t : State} (h : HostMoves s t) (hs : Inv s) : Inv t := by
  cases h with
  | noInput | idle | releaseReset => exact hs
  | @read a r rest => exact busRead_keeps_inv r (s := { s with inputs := rest }) hs
  | @write r v rest => exact busWrite_keeps_inv r v (s := { s with inputs := rest }) hs
  | poll => exact pollStatus_keeps_inv _ hs
  | @assertReset rest => exact assertReset_keeps_inv (s := { s with inputs := rest }) hs

/-- The reset values: KEYV, BIJ and DISTINCT are 0, and nothing is pending (R39). -/
theorem inv_afterReset (n : Nat) : Inv (State.afterReset n) :=
  ⟨scheduleCurrent_of_not_keyv rfl, pendingIsCmd_of_pending_eq_none rfl, rfl, Nat.zero_le _⟩

theorem ResetMoves.inv {s t : State} (h : ResetMoves s t) (hs : Inv s) : Inv t := by
  cases h with
  | noInput | idle | assertReset => exact hs
  | releaseReset => exact inv_afterReset (s.resets + 1)

/-! ### Every step -/

/-- Settles O11. -/
theorem resetMeetsTheInvariant : Obligations.ResetMeetsTheInvariant := by
  unfold Obligations.ResetMeetsTheInvariant
  exact inv_afterReset 0

/-- Settles O12: each agent's moves keep the invariant, and counting a latency down keeps the pending word. -/
theorem stepKeepsTheInvariant : Obligations.StepKeepsTheInvariant := by
  unfold Obligations.StepKeepsTheInvariant
  intro s t hs h
  cases step_moves h with
  | @assertReset rest => exact assertReset_keeps_inv (s := { s with inputs := rest }) hs
  | inReset _ hmove => exact hmove.inv hs
  | perform _ _ hperf => exact perform_keeps_inv hperf hs
  | idle _ _ hmove => exact hmove.inv hs
  | @waiting w k _ _ hp hmove =>
    obtain ⟨hsched, hpend, hrecord⟩ := hs
    have hword : w = s.cmd := hpend _ hp
    exact hmove.inv ⟨hsched, fun p hp' => by cases hp'; exact hword, hrecord⟩

/-! ### What each move leaves in KEYV (R22) -/

@[simp] theorem busRead_keyv (r : Reg) (s : State) : (busRead r s).2.keyv = s.keyv := by
  rcases busRead_state r s with h | h <;> rw [h]

@[simp] theorem pollStatus_keyv (rest : List Input) (s : State) : (pollStatus rest s).keyv = s.keyv := by
  unfold pollStatus
  split <;> rfl

/-- The registers whose accepted write clears KEYV (R22). -/
def clearsKeyv : Reg → Prop
  | .key _ => True
  | .sbox _ => True
  | _ => False

theorem writeReg_keyv (r : Reg) (v : Word) (s : State) :
    (writeReg r v s).keyv = s.keyv ∨ (clearsKeyv r ∧ (writeReg r v s).keyv = false) := by
  cases r with
  | key | sbox => exact .inr ⟨trivial, rfl⟩
  | id | cmd | status | din | dout | mat0 | mat1 | gfop | gfres | invsbox | rk => exact .inl rfl

/-- Of the outside's moves only an accepted write of KEY or SBOX changes KEYV, and it clears it. -/
theorem HostMoves.keyv {s t : State} (h : HostMoves s t) :
    t.keyv = s.keyv ∨
      (s.pending = none ∧ t.keyv = false ∧ ∃ r v, s.inputs.head? = some (wr r v) ∧ clearsKeyv r) := by
  cases h with
  | noInput | idle | read | poll | assertReset | releaseReset => exact .inl (by simp)
  | @write r v rest hin =>
    rcases busWrite_cases r v { s with inputs := rest } with ⟨-, hw⟩ | ⟨hidle, hw⟩
    · exact .inl (by rw [hw])
    · rcases writeReg_keyv r v { s with inputs := rest } with hkeep | ⟨hr, hclr⟩
      · exact .inl (hw ▸ hkeep)
      · exact .inr ⟨by simpa [State.busy] using hidle, hw ▸ hclr, r, v, by simp [hin], hr⟩

theorem ResetMoves.keyv {s t : State} (h : ResetMoves s t) :
    t.keyv = s.keyv ∨ (s.inputs.head? = some .releaseReset ∧ t.keyv = false) := by
  cases h with
  | releaseReset hin => exact .inr ⟨by simp [hin], rfl⟩
  | noInput | idle | assertReset => exact .inl rfl

/-- Of the commands only KEYEXP and CONSTRUCT change KEYV: KEYEXP to whether SBOX is a permutation, CONSTRUCT to 0. -/
theorem ExecMoves.keyv {s t : State} {i : Instr} (h : ExecMoves s i t) :
    t.keyv = s.keyv ∨ (i = .keyexp ∧ (t.keyv = true ↔ Permutation s.sbox)) ∨ (i = .construct ∧ t.keyv = false) := by
  cases h with
  | refused | result | detpar | validate => exact .inl rfl
  | construct => exact .inr (.inr ⟨rfl, rfl⟩)
  | keyexp hperm => exact .inr (.inl ⟨rfl, iff_of_true rfl hperm⟩)
  | keyexpFails hperm => exact .inr (.inl ⟨rfl, iff_of_false Bool.false_ne_true hperm⟩)

/-- Everything a step can do to KEYV (R22). -/
theorem step_keyv {s t : State} (h : step s = .next t) :
    t.keyv = s.keyv ∨
      (∃ w, s.pending = some ⟨w, 0⟩ ∧
        ((decodeWord w = .ok .keyexp ∧ (t.keyv = true ↔ Permutation s.sbox)) ∨
          (decodeWord w = .ok .construct ∧ t.keyv = false))) ∨
      (s.pending = none ∧ t.keyv = false ∧ ∃ r v, s.inputs.head? = some (wr r v) ∧ clearsKeyv r) ∨
      (s.inReset = true ∧ s.inputs.head? = some .releaseReset ∧ t.keyv = false) := by
  cases step_moves h with
  | assertReset => exact .inl rfl
  | inReset hr hmove => exact hmove.keyv.imp_right fun hrel => .inr (.inr ⟨hr, hrel⟩)
  | idle _ _ hmove => exact hmove.keyv.imp_right fun hwr => .inr (.inl hwr)
  | waiting _ _ hmove =>
    -- the latency is not over, so the block is busy and drops every write
    exact hmove.keyv.imp_right fun hwr => absurd hwr.1 (Option.some_ne_none _)
  | perform _ hp hperf =>
    rcases perform_moves hperf with rfl | ⟨i, hdec, hmove⟩
    · exact .inl rfl
    · rcases hmove.keyv with hkeep | ⟨rfl, hkey⟩ | ⟨rfl, hkey⟩
      · exact .inl hkeep
      · exact .inr (.inl ⟨_, hp, .inl ⟨hdec, hkey⟩⟩)
      · exact .inr (.inl ⟨_, hp, .inr ⟨hdec, hkey⟩⟩)

theorem step_keyv_rises {s t : State} (h : step s = .next t) (hs : s.keyv = false) (ht : t.keyv = true) :
    ∃ w, s.pending = some ⟨w, 0⟩ ∧ decodeWord w = .ok .keyexp ∧ Permutation s.sbox := by
  rcases step_keyv h with hkeep | ⟨w, hp, ⟨hdec, hkey⟩ | ⟨-, hclr⟩⟩ | ⟨-, hclr, -⟩ | ⟨-, -, hclr⟩
  · simp [hkeep, hs] at ht
  · exact ⟨w, hp, hdec, hkey.1 ht⟩
  all_goals simp [hclr] at ht

theorem step_keyv_falls {s t : State} (h : step s = .next t) (hs : s.keyv = true) (ht : t.keyv = false) :
    (∃ w, s.pending = some ⟨w, 0⟩ ∧
        ((decodeWord w = .ok .keyexp ∧ ¬ Permutation s.sbox) ∨ decodeWord w = .ok .construct)) ∨
      (s.pending = none ∧ ∃ r v, s.inputs.head? = some (wr r v) ∧ clearsKeyv r) ∨
      (s.inReset = true ∧ s.inputs.head? = some .releaseReset) := by
  rcases step_keyv h with hkeep | ⟨w, hp, ⟨hdec, hkey⟩ | ⟨hdec, -⟩⟩ | ⟨hp, -, hwr⟩ | ⟨hr, hin, -⟩
  · simp [hkeep, hs] at ht
  · exact .inl ⟨w, hp, .inl ⟨hdec, fun hperm => by simp [hkey.2 hperm] at ht⟩⟩
  · exact .inl ⟨w, hp, .inr hdec⟩
  · exact .inr (.inl ⟨hp, hwr⟩)
  · exact .inr (.inr ⟨hr, hin⟩)

/-- Settles O13: `step_keyv` says what a step can do to KEYV, and the registers that clear it are KEY and SBOX. -/
theorem keyvChangesOnlyAsListed : Obligations.KeyvChangesOnlyAsListed := by
  unfold Obligations.KeyvChangesOnlyAsListed
  refine fun s t h => ⟨step_keyv_rises h, fun hs ht => (step_keyv_falls h hs ht).imp_right (Or.imp_left ?_)⟩
  rintro ⟨hp, r, v, hin, hr⟩
  cases r with
  | key j => exact ⟨hp, v, .inl ⟨j, hin⟩⟩
  | sbox k => exact ⟨hp, v, .inr ⟨k, hin⟩⟩
  | id | cmd | status | din | dout | mat0 | mat1 | gfop | gfres | invsbox | rk => exact hr.elim

end Sys2Proof.Machine
end

section
/-! PROOFS. Commands and the outside: what a command reads and writes is the block alone, and the outside leaves the block as
it is while a command waits (O7, O8); which step performs the command (O4). -/

namespace Sys2Proof.Machine

/-! ### The block and what is outside it (R51, R60) -/

/-- The block of `s` with the pending command, OVR, the reset input and the agents' side of `o`. -/
def withOutside (s o : State) : State :=
  { s with
    pending := o.pending, ovr := o.ovr, inReset := o.inReset, inputs := o.inputs, trace := o.trace, resets := o.resets,
    busyReads := o.busyReads, issued := o.issued }

theorem sameBlock_withOutside (s o : State) : SameBlock s (withOutside s o) :=
  ⟨rfl, rfl, rfl, rfl, rfl, rfl, rfl, rfl, rfl, rfl, rfl, rfl, rfl, rfl, rfl, rfl⟩

theorem sameBlock_iff_eq_withOutside {s t : State} : SameBlock s t ↔ t = withOutside s t := by
  constructor
  · rintro ⟨hcmd, hkeyv, hbij, hminv, herr, hdistinct, hkey, hdin, hdout, hmat0, hmat1, hgfop, hgfres, hsbox, hinv, hrk⟩
    rw [withOutside, ← hcmd, ← hkeyv, ← hbij, ← hminv, ← herr, ← hdistinct, ← hkey, ← hdin, ← hdout, ← hmat0, ← hmat1,
      ← hgfop, ← hgfres, ← hsbox, ← hinv, ← hrk]
  · exact fun h => h ▸ sameBlock_withOutside s t

theorem SameBlock.refl (s : State) : SameBlock s s := sameBlock_withOutside s s

theorem SameBlock.trans {s t u : State} (hst : SameBlock s t) (htu : SameBlock t u) : SameBlock s u := by
  rw [sameBlock_iff_eq_withOutside] at hst htu ⊢
  rw [htu, hst]
  rfl

/-! ### A command reads and writes the block alone -/

/-- What performing a command on the block of `s` and on the same block in other surroundings `o` leaves: the same block,
with nothing pending and the surroundings as they were. -/
def ExecAgrees (i : Instr) (s o : State) : Prop :=
  ∃ t, exec i s = .next t ∧ exec i (withOutside s o) = .next (withOutside t { o with pending := none })

/-- KEYV is in the block, so both go on or both are refused. -/
theorem requireKey_withOutside {k k' : State → State} {s o : State}
    (hk : k' (withOutside s o) = withOutside (k s) { o with pending := none }) :
    requireKey k' (withOutside s o) = withOutside (requireKey k s) { o with pending := none } := by
  rcases requireKey_cases k s with ⟨hkey, h⟩ | ⟨hkey, h⟩
  · rw [h, ← hk]
    exact requireKey_of_keyv k' hkey
  · rw [h]
    exact requireKey_of_not_keyv k' hkey

/-- CONSTRUCT's arm of the dispatch (R83). -/
theorem exec_construct (s : State) :
    exec .construct s = .next (complete (singularCode (detParity (matrixOf s)))
      (recordBijectivity (constructTable (matrixOf s))
        { s with sbox := constructTable (matrixOf s), minv := detParity (matrixOf s), keyv := false })) := by
  rw [exec, execConstruct]

/-- DETPAR's arm of the dispatch (R85). -/
theorem exec_detpar (s : State) :
    exec .detpar s =
      .next (complete (singularCode (detParity (matrixOf s))) { s with minv := detParity (matrixOf s) }) := by
  rw [exec, execDetpar]

/-- A command's operands and results are all in the block (R58, R60). -/
theorem exec_agrees (i : Instr) (s o : State) : ExecAgrees i s o := by
  cases i with
  | keyexp =>
    by_cases h : Permutation s.sbox
    · exact ⟨_, exec_keyexp_of_permutation h, exec_keyexp_of_permutation (s := withOutside s o) h⟩
    · exact ⟨_, exec_keyexp_of_not_permutation h, exec_keyexp_of_not_permutation (s := withOutside s o) h⟩
  | encrypt => exact ⟨_, rfl, congrArg _ (requireKey_withOutside rfl)⟩
  | decrypt => exact ⟨_, rfl, congrArg _ (requireKey_withOutside rfl)⟩
  | addroundkey n =>
    by_cases h : n.toNat ≤ 10
    · exact ⟨_, exec_addroundkey_of_le s h,
        (exec_addroundkey_of_le (withOutside s o) h).trans (congrArg _ (requireKey_withOutside rfl))⟩
    · exact ⟨_, exec_addroundkey_of_lt s (Nat.lt_of_not_le h), exec_addroundkey_of_lt _ (Nat.lt_of_not_le h)⟩
  | invert =>
    have hsbox : (withOutside s o).sbox = s.sbox := rfl
    refine ⟨_, exec_invert s, ?_⟩
    rw [exec_invert, hsbox]
    generalize invertTable s.sbox = u
    rfl
  | construct =>
    have hmat : matrixOf (withOutside s o) = matrixOf s := rfl
    refine ⟨_, exec_construct s, ?_⟩
    rw [exec_construct, hmat]
    generalize constructTable (matrixOf s) = u, detParity (matrixOf s) = b
    rfl
  | detpar =>
    have hmat : matrixOf (withOutside s o) = matrixOf s := rfl
    refine ⟨_, exec_detpar s, ?_⟩
    rw [exec_detpar, hmat]
    generalize detParity (matrixOf s) = b
    rfl
  | nop | validate | subbytes | invsubbytes | shiftrows | invshiftrows | mixcolumns | invmixcolumns
  | gfinv | gfmul | affine | affinv => exact ⟨_, rfl, rfl⟩

/-- From the same block a word is performed with the same effect on the block, whatever the surroundings (R51). -/
theorem perform_sameBlock (w : Word) {s t : State} (h : SameBlock s t) :
    ∃ u v, perform w s = .next u ∧ perform w t = .next v ∧ SameBlock u v := by
  rw [sameBlock_iff_eq_withOutside.1 h]
  unfold perform
  split
  next i _ =>
    obtain ⟨u, hs, ht⟩ := exec_agrees i s t
    exact ⟨u, _, hs, ht, sameBlock_withOutside u _⟩
  next => exact ⟨_, _, rfl, rfl, sameBlock_withOutside (illegalCommand s) { t with pending := none }⟩

/-- A performed word completes, so that nothing is pending any more, and leaves the inputs and the reset input to the outside
(R60, R64). -/
theorem perform_outside {w : Word} {s t : State} (h : perform w s = .next t) :
    t.pending = none ∧ t.inputs = s.inputs ∧ t.inReset = s.inReset := by
  unfold perform at h
  split at h
  next i _ =>
    obtain ⟨c, u, hexec, hu⟩ := exec_writes i s
    cases hexec.symm.trans h
    rw [hu]
    exact ⟨rfl, rfl, rfl⟩
  next =>
    cases h
    exact ⟨rfl, rfl, rfl⟩

/-! ### The outside while a command waits (R49 to R51) -/

/-- While busy, the outside's moves but an assertion of reset leave the block and the pending command, and OVR once set. -/
theorem HostMoves.busy_frame {s t : State} (h : HostMoves s t) (hb : s.busy = true)
    (hr : s.inputs.head? ≠ some .assertReset) :
    SameBlock s t ∧ t.pending = s.pending ∧ t.inReset = s.inReset ∧ (s.ovr = true → t.ovr = true) := by
  cases h with
  | noInput => exact ⟨.refl s, rfl, rfl, id⟩
  | @idle rest => exact ⟨sameBlock_withOutside s { s with inputs := rest }, rfl, rfl, id⟩
  | @releaseReset rest => exact ⟨sameBlock_withOutside s { s with inputs := rest }, rfl, rfl, id⟩
  | assertReset hin => exact absurd (by rw [hin]; rfl) hr
  | @write r v rest =>
    have hdropped : busWrite r v { s with inputs := rest } = { s with inputs := rest, ovr := true } := if_pos hb
    rw [hdropped]
    exact ⟨sameBlock_withOutside s { s with inputs := rest, ovr := true }, rfl, rfl, fun _ => rfl⟩
  | @read a r rest =>
    rcases busRead_state r { s with inputs := rest } with hread | hread
    · rw [hread]
      exact ⟨sameBlock_withOutside s (logRead a.off _ { s with inputs := rest }), rfl, rfl, id⟩
    · rw [hread]
      exact ⟨sameBlock_withOutside s (logRead a.off _ { s with inputs := rest, busyReads := s.busyReads + 1 }), rfl, rfl,
        id⟩
  | @poll rest =>
    have hagain : pollStatus rest s = logRead (offsetOf .status) (statusWord s) s := if_pos hb
    rw [hagain]
    exact ⟨sameBlock_withOutside s (logRead (offsetOf .status) (statusWord s) s), rfl, rfl, id⟩

/-- Settles O7: the step is the outside's move with the latency counted down, from a busy state. -/
theorem hostCannotDisturbAPendingCommand : Obligations.HostCannotDisturbAPendingCommand := by
  unfold Obligations.HostCannotDisturbAPendingCommand
  intro s t w k hr hin hp h
  rw [step, machineMove_waiting s w k hin hr hp] at h
  obtain ⟨hblock, hpend, -, hovr⟩ := (hostMove_moves h).busy_frame rfl hin
  exact ⟨(sameBlock_withOutside s { s with pending := some ⟨w, k⟩ }).trans hblock, hpend, hovr⟩

/-! ### Which steps perform the pending command (R63) -/

/-- A command whose latency is over is performed, unless reset comes first. -/
theorem step_of_due {s : State} {w : Word} (hin : s.inputs.head? ≠ some .assertReset) (hr : s.inReset = false)
    (hp : s.pending = some ⟨w, 0⟩) : step s = perform w s := by
  simp [step, machineMove, resetNext_eq_false hin, hr, hp]

theorem perform_of_ok {w : Word} {i : Instr} (s : State) (h : decodeWord w = .ok i) : perform w s = exec i s := by
  rw [perform, h]

theorem head?_dropResets (l : List Input) : (dropResets l).head? ≠ some .assertReset := by
  fun_induction dropResets l with
  | case1 rest ih => exact ih
  | case2 l hne =>
    intro h
    obtain ⟨rest, hl⟩ := List.head?_eq_some_iff.1 h
    exact hne rest hl

/-- The decoder reads a word of the opcode table through its byte lanes (R43). -/
theorem decodeWord_of_decodeTableWord {nbits w : Nat} {i : Instr} (h : decodeTableWord nbits w = some i) :
    decodeWord (tableWord32 nbits w) = .ok i := by
  simp only [decodeTableWord, decode, word4_lanes] at h
  cases hdec : decodeWord (tableWord32 nbits w) with
  | error e => simp [hdec] at h
  | ok j => simpa [hdec] using h

/-- Settles O4: a due command is performed (`step_of_due`), and a staged one is due, with no reset before it. -/
theorem stepRunsThePendingCommand : Obligations.StepRunsThePendingCommand := by
  unfold Obligations.StepRunsThePendingCommand
  refine ⟨fun s w hin hr hp => ?due, fun s w i hdec => ?staged⟩
  case due =>
    rw [step_of_due hin hr hp]
    exact ⟨fun i hdec => perform_of_ok s hdec, fun e hdec => perform_of_error s ⟨e, hdec⟩⟩
  case staged =>
    exact (step_of_due (head?_dropResets s.inputs) rfl rfl).trans (perform_of_ok _ (decodeWord_of_decodeTableWord hdec))

/-! ### Runs (R52, R63) -/

/-- A run goes on after its first step. -/
theorem run_succ {s t : State} (h : step s = .next t) (k : Nat) :
    Sys2Proof.core.run (k + 1) s = Sys2Proof.core.run k t := by
  have hcore : Sys2Proof.core.step s = .next t := h
  simp only [Host.Core.run, hcore]

theorem run_one {s t : State} (h : step s = .next t) : Sys2Proof.core.run 1 s = .next t := by
  rw [run_succ h]
  rfl

/-- A run goes on from where its first part ended. -/
theorem run_add {m : Nat} {s t : State} (h : Sys2Proof.core.run m s = .next t) (n : Nat) :
    Sys2Proof.core.run (m + n) s = Sys2Proof.core.run n t := by
  induction m generalizing s with
  | zero =>
    cases h
    rw [Nat.zero_add]
  | succ m ih =>
    cases hstep : step s with
    | next u =>
      rw [run_succ hstep] at h
      rw [Nat.succ_add, run_succ hstep, ih h]
    | fault r =>
      have hcore : Sys2Proof.core.step s = .fault r := hstep
      simp [Host.Core.run, hcore] at h
    | refused r =>
      have hcore : Sys2Proof.core.step s = .refused r := hstep
      simp [Host.Core.run, hcore] at h

/-! ### Quiet inputs (R51, R52) -/

theorem head?_ne_assertReset_of_quiet {l : List Input} (h : l.all quietInput = true) : l.head? ≠ some .assertReset := by
  intro hin
  exact absurd (List.all_eq_true.1 h _ (List.mem_of_head? hin)) Bool.false_ne_true

/-- An access the block serves is no bus error, so the host's move for it does not stop. -/
theorem hostAccess_of_served {a : Access} (h : a.served = true) (s : State) : ∃ t, hostAccess a s = .next t := by
  obtain ⟨hlegal, hreg⟩ : a.legal = true ∧ (regAt a.off).isSome = true := by simpa [Access.served] using h
  have hok : (serve a s).1 ≠ .busError := by
    rw [Ne, serve_busError_iff]
    rintro (hl | hr)
    · simp [hlegal] at hl
    · simp [hr] at hreg
  unfold hostAccess
  split
  next hserve => exact absurd (congrArg Prod.fst hserve) hok
  next => exact ⟨_, rfl⟩
  next => exact ⟨_, rfl⟩

@[simp] theorem busRead_inputs (r : Reg) (s : State) : (busRead r s).2.inputs = s.inputs := by
  rcases busRead_state r s with h | h <;> rw [h]

@[simp] theorem busWrite_inputs (r : Reg) (v : Word) (s : State) : (busWrite r v s).inputs = s.inputs := by
  rcases busWrite_cases r v s with ⟨-, h⟩ | ⟨-, h⟩
  · rw [h]
  · rw [h]
    cases r <;> rfl

/-- The outside takes its inputs in order, or waits with the same ones. -/
theorem HostMoves.inputs_suffix {s t : State} (h : HostMoves s t) : t.inputs <:+ s.inputs := by
  cases h with
  | noInput => exact List.suffix_refl _
  | idle hin | assertReset hin | releaseReset hin => exact hin ▸ List.suffix_cons _ _
  | read hin =>
    rw [logRead_inputs, busRead_inputs, hin]
    exact List.suffix_cons _ _
  | write hin =>
    rw [busWrite_inputs, hin]
    exact List.suffix_cons _ _
  | poll hin =>
    unfold pollStatus
    split
    · exact List.suffix_refl _
    · exact hin ▸ List.suffix_cons _ _

/-- The outside's move with quiet inputs does not stop. -/
theorem hostMove_of_quiet {s : State} (h : s.inputs.all quietInput = true) : ∃ t, hostMove s = .next t := by
  unfold hostMove
  split
  case h_3 a rest hin =>
    have hserved : quietInput (.access a) = true := List.all_eq_true.1 h _ (by simp [hin])
    exact hostAccess_of_served hserved _
  all_goals exact ⟨_, rfl⟩

/-- One move of the outside with quiet inputs while a command waits: the latency goes down by one, and the block, the reset
input and the quiet of the rest are as before. -/
theorem step_waiting_of_quiet {s : State} {w : Word} {n : Nat} (hr : s.inReset = false)
    (hp : s.pending = some ⟨w, n + 1⟩) (hq : s.inputs.all quietInput = true) :
    ∃ t, step s = .next t ∧ SameBlock s t ∧ t.inReset = false ∧ t.pending = some ⟨w, n⟩ ∧
      t.inputs.all quietInput = true := by
  have hin := head?_ne_assertReset_of_quiet hq
  obtain ⟨t, hmove⟩ := hostMove_of_quiet (s := { s with pending := some ⟨w, n⟩ }) hq
  obtain ⟨hblock, hpend, hreset, -⟩ := (hostMove_moves hmove).busy_frame rfl hin
  refine ⟨t, (machineMove_waiting s w n hin hr hp).trans hmove,
    (sameBlock_withOutside s { s with pending := some ⟨w, n⟩ }).trans hblock, hreset.trans hr, hpend, ?_⟩
  exact List.all_eq_true.2 fun x hx => List.all_eq_true.1 hq x ((hostMove_moves hmove).inputs_suffix.subset hx)

/-- Settles O8, by induction on the latency left: each move of the outside keeps the block, so performing the word after
it has the effect it had before. -/
theorem commandsAreAtomicAndComplete : Obligations.CommandsAreAtomicAndComplete := by
  unfold Obligations.CommandsAreAtomicAndComplete
  intro s w n hr hp hq
  induction n generalizing s with
  | zero =>
    obtain ⟨u, -, hu, -⟩ := perform_sameBlock w (.refl s)
    have hstep : step s = .next u := (step_of_due (head?_ne_assertReset_of_quiet hq) hr hp).trans hu
    obtain ⟨hpend, -, -⟩ := perform_outside hu
    exact ⟨u, u, run_one hstep, hu, hpend, .refl u⟩
  | succ n ih =>
    obtain ⟨s', hstep, hblock, hr', hp', hq'⟩ := step_waiting_of_quiet hr hp hq
    obtain ⟨t, u', hrun, hperf, hpend, hsame⟩ := ih s' hr' hp' hq'
    obtain ⟨u, v, hu, hv, huv⟩ := perform_sameBlock w hblock
    obtain rfl : v = u' := Host.Outcome.next.inj (hv.symm.trans hperf)
    exact ⟨t, u, (run_succ hstep _).trans hrun, hu, hpend, huv.trans hsame⟩

end Sys2Proof.Machine
end

section
/-! PROOFS. The host's scripts: EXEC runs to the end of its command (O9), and LDBLK loads DIN (O10). -/

namespace Sys2Proof.Machine

/-! ### EXEC (R68) -/

/-- While a command waits, the polls of a WAIT count its latency down and note STATUS, and do nothing else. -/
theorem run_polling {w : Word} {n : Nat} {s : State} {rest : List Input} (hr : s.inReset = false)
    (hin : s.inputs = .wait :: rest) (hp : s.pending = some ⟨w, n⟩) :
    ∃ tr, Sys2Proof.core.run n s = .next { s with pending := some ⟨w, 0⟩, trace := tr } := by
  induction n generalizing s with
  | zero => exact ⟨s.trace, by rw [← hp]; rfl⟩
  | succ n ih =>
    have hstep : step s = .next (logRead (offsetOf .status) (statusWord { s with pending := some ⟨w, n⟩ })
        { s with pending := some ⟨w, n⟩ }) := by
      rw [step, machineMove_waiting s w n (by simp [hin]) hr hp]
      simp [hostMove, hin, pollStatus, State.busy]
    obtain ⟨tr, hrun⟩ := ih (s := logRead (offsetOf .status) (statusWord { s with pending := some ⟨w, n⟩ })
        { s with pending := some ⟨w, n⟩ }) hr hin rfl
    exact ⟨tr, (run_succ hstep n).trans hrun⟩

/-- With nothing pending, a WAIT reads STATUS once and ends. -/
theorem step_wait_idle {s : State} {rest : List Input} (hr : s.inReset = false) (hp : s.pending = none)
    (hin : s.inputs = .wait :: rest) :
    step s = .next { logRead (offsetOf .status) (statusWord s) s with inputs := rest } := by
  rw [step, machineMove_idle s hr hp]
  simp [hostMove, hin, pollStatus, State.busy, hp]

/-- A write of a register that is next while idle has its listed effect. -/
theorem step_write_idle {s : State} {r : Reg} {v : Word} {rest : List Input} (h : Idle s) (hin : s.inputs = wr r v :: rest) :
    step s = .next (writeReg r v { s with inputs := rest }) := by
  obtain ⟨hp, hr⟩ := h
  rw [step, machineMove_idle s hr hp, hostMove_write hin]
  exact congrArg _ (if_neg (by simp [State.busy, hp]))

/-- From the start of an EXEC on an idle machine to the moment its command is due: the word is accepted and polled over its
latency, and of the block CMD alone has changed. -/
theorem run_execScript_until_due {s : State} {i : Instr} {rest : List Input} (h : Idle s)
    (hin : s.inputs = execScript i ++ rest) :
    ∃ k t, Sys2Proof.core.run k s = .next t ∧ SameBlock { s with cmd := encode i } t ∧ t.inReset = false ∧
      t.pending = some ⟨encode i, 0⟩ ∧ t.inputs = .wait :: rest ∧ t.ovr = s.ovr := by
  have hr : s.inReset = false := h.2
  have haccept := step_write_idle h hin
  obtain ⟨tr, hpoll⟩ := run_polling (s := accept (encode i) { s with inputs := .wait :: rest }) hr rfl rfl
  exact ⟨_, _, (run_succ haccept _).trans hpoll, sameBlock_withOutside { s with cmd := encode i }
    { accept (encode i) { s with inputs := .wait :: rest } with pending := some ⟨encode i, 0⟩, trace := tr },
    hr, rfl, rfl, rfl⟩

/-- Settles O9: once due, the command is performed on the block that the write to CMD left, and one more poll ends the
WAIT. -/
theorem execScriptPerformsTheCommand : Obligations.ExecScriptPerformsTheCommand := by
  unfold Obligations.ExecScriptPerformsTheCommand
  intro s i rest hidle hwf hin
  obtain ⟨k, d, hrun, hblock, hr, hp, hdin, hovr⟩ := run_execScript_until_due hidle hin
  obtain ⟨u, v, hu, hv, huv⟩ := perform_sameBlock (encode i) hblock
  obtain ⟨hvpend, hvin, hvr⟩ := perform_outside hv
  have hvovr : v.ovr = d.ovr := perform_ovr hv
  have hperform := (step_of_due (by simp [hdin]) hr hp).trans hv
  have hwait := step_wait_idle (hvr.trans hr) hvpend (hvin.trans hdin)
  exact ⟨_, _, u, (run_add hrun 2).trans ((run_succ hperform 1).trans (run_one hwait)),
    (perform_of_ok _ (decodeWord_encode hwf)).symm.trans hu, rfl, hvpend, hvovr.trans hovr,
    huv.trans (sameBlock_withOutside v { logRead (offsetOf .status) (statusWord v) v with inputs := rest })⟩

/-! ### LDBLK (R43, R68) -/

/-- Input registers `js` set to the words `ws` has there, in order. -/
def setWords (ws : Vector Word 4) (js : List (Fin 4)) (d : Vector Word 4) : Vector Word 4 :=
  js.foldl (fun d j => d.set j.val ws[j]) d

theorem getElem_setWords (ws : Vector Word 4) (js : List (Fin 4)) (d : Vector Word 4) (i : Fin 4) :
    (setWords ws js d)[i] = if i ∈ js then ws[i] else d[i] := by
  induction js generalizing d with
  | nil => rfl
  | cons j js ih =>
    have hset : (d.set j.val ws[j])[i] = if i = j then ws[i] else d[i] := by
      simp only [Fin.getElem_fin, Vector.getElem_set, ← Fin.ext_iff, eq_comm (a := j)]
      split
      next h => rw [h]
      next => rfl
    refine (ih _).trans ?_
    rw [hset]
    by_cases hj : i = j <;> simp [hj]

/-- All four registers set are the words. -/
theorem setWords_finRange (ws d : Vector Word 4) : setWords ws (List.finRange 4) d = ws := by
  ext1 i hi
  exact (getElem_setWords ws _ d ⟨i, hi⟩).trans (if_pos (List.mem_finRange _))

/-- Writes of input registers on an idle machine, one step each. -/
theorem run_writes_din (ws : Vector Word 4) {js : List (Fin 4)} {s : State} {rest : List Input} (h : Idle s)
    (hin : s.inputs = js.map (fun j => wr (.din j) ws[j]) ++ rest) :
    Sys2Proof.core.run js.length s = .next { s with din := setWords ws js s.din, inputs := rest } := by
  induction js generalizing s with
  | nil =>
    have hrest : s.inputs = rest := hin
    rw [← hrest]
    rfl
  | cons j js ih =>
    have hstep := step_write_idle h hin
    exact (run_succ hstep _).trans (ih (s := writeReg (.din j) ws[j] { s with inputs := _ }) h rfl)

/-- Settles O10: the four writes set all four input registers, whose lanes are the block's bytes. -/
theorem loadBlockScriptLoadsDin : Obligations.LoadBlockScriptLoadsDin := by
  unfold Obligations.LoadBlockScriptLoadsDin
  intro s b rest h hin
  refine ⟨wordsOfBlock b, ?_, fun j c => lane_wordsOfBlock b j j.isLt c⟩
  have hrun := run_writes_din (wordsOfBlock b) h hin
  rwa [setWords_finRange] at hrun

end Sys2Proof.Machine
end

section
/-! PROOFS. The reset input: asserting it abandons the pending command, releasing it gives the reset values (O24). -/

namespace Sys2Proof.Machine

/-- While reset is asserted, the outside moves alone (R135). -/
theorem step_inReset {s : State} (hr : s.inReset = true) (hin : s.inputs.head? ≠ some .assertReset) :
    step s = resetMove s := by
  simp [step, machineMove, resetNext_eq_false hin, hr]

/-- STATUS is 0 after the release of reset (R39, R135). -/
theorem statusWord_releaseReset (s : State) : statusWord (releaseReset s) = 0 := by
  simp [statusWord, statusBit, State.busy, releaseReset, State.afterReset, Err.code]

/-- Settles O24: an assertion is the first move whatever is pending, the outside alone moves until the release
(`step_inReset`), and the release gives the reset values. -/
theorem resetAbandonsAndClears : Obligations.ResetAbandonsAndClears := by
  unfold Obligations.ResetAbandonsAndClears
  refine ⟨fun s rest hin => machineMove_reset s rest hin, fun s a rest hr hin => ?access, fun s t hr hin h => ?asserted,
    fun s rest hr hin => ?released⟩
  case access =>
    rw [step_inReset hr (by simp [hin]), resetMove, hin]
  case asserted =>
    cases step_moves h with
    | @assertReset rest => exact ⟨sameBlock_withOutside s (assertReset { s with inputs := rest }), rfl⟩
    | perform hr' | waiting hr' | idle hr' => simp [hr] at hr'
    | inReset _ hmove =>
      cases hmove with
      | noInput => exact ⟨.refl s, hr⟩
      | @idle rest | @assertReset rest => exact ⟨sameBlock_withOutside s { s with inputs := rest }, hr⟩
      | releaseReset hrel => simp [hrel] at hin
  case released =>
    have hstep : step s = .next (releaseReset { s with inputs := rest }) := by
      rw [step_inReset hr (by simp [hin]), resetMove, hin]
    refine ⟨_, hstep, rfl, rfl, rfl, rfl, statusWord_releaseReset _, fun j => ?words, rfl, rfl, rfl, rfl,
      fun i => ?tables, fun k => ?schedule, rfl, rfl⟩
    case words => simp [readReg, releaseReset, State.afterReset]
    case tables => simp [releaseReset, State.afterReset]
    case schedule => simp [releaseReset, State.afterReset]

end Sys2Proof.Machine
end

section
/-! PROOFS. The register window: the layout of STATUS (O16), reads while idle (O21) and what a read may change (O22), and the
reset values (O23). -/

namespace Sys2Proof.Machine

/-! ### The bits of STATUS (R20) -/

/-- A one-bit field is at its place alone. -/
theorem getLsbD_statusBit (b : Bool) (n : Nat) {k : Nat} (hk : k < 32) :
    (statusBit b n).getLsbD k = (decide (k = n) && b) := by
  rcases Nat.lt_trichotomy k n with h | rfl | h
  · simp [statusBit, h, h.ne]
  · simp [statusBit, hk]
  · have hsub : k - n ≠ 0 := by omega
    simp [statusBit, h.ne', BitVec.getLsbD_ofBool, hsub]

/-- Bit `k` of STATUS by the fields of R20. -/
theorem getLsbD_statusWord (s : State) {k : Nat} (hk : k < 32) :
    (statusWord s).getLsbD k =
      (decide (k = 0) && s.busy || decide (k = 1) && s.keyv || decide (k = 2) && s.bij || decide (k = 3) && s.minv ||
        decide (k = 4) && s.ovr || !decide (k < 8) && s.err.code.getLsbD (k - 8) ||
        !decide (k < 16) && s.distinct.getLsbD (k - 16)) := by
  have hfit (n : Nat) : k - n < 32 := by omega
  simp only [statusWord, BitVec.getLsbD_or, getLsbD_statusBit _ _ hk, BitVec.getLsbD_shiftLeft, BitVec.getLsbD_setWidth, hk,
    hfit, decide_true, Bool.true_and]

/-- The one-bit fields of STATUS (R20). -/
theorem statusWord_flags (s : State) :
    (statusWord s).getLsbD 0 = s.busy ∧ (statusWord s).getLsbD 1 = s.keyv ∧ (statusWord s).getLsbD 2 = s.bij ∧
      (statusWord s).getLsbD 3 = s.minv ∧ (statusWord s).getLsbD 4 = s.ovr := by
  refine ⟨?_, ?_, ?_, ?_, ?_⟩ <;> rw [getLsbD_statusWord s (by decide)] <;> simp

/-- A field of STATUS, from its bits. -/
theorem extractLsb'_statusWord {s : State} {n w : Nat} {v : BitVec w}
    (h : ∀ k < w, (statusWord s).getLsbD (n + k) = v.getLsbD k) : (statusWord s).extractLsb' n w = v := by
  apply BitVec.eq_of_getLsbD_eq
  intro k hk
  simp only [BitVec.getLsbD_extractLsb', hk, decide_true, Bool.true_and, h k hk]

/-- The fields of STATUS that are more than one bit, and its reserved bits, which read 0 (R20, R27). -/
theorem statusWord_fields (s : State) :
    (statusWord s).extractLsb' 5 3 = 0 ∧ (statusWord s).extractLsb' 8 4 = s.err.code ∧
      (statusWord s).extractLsb' 12 4 = 0 ∧ (statusWord s).extractLsb' 16 9 = s.distinct ∧
      (statusWord s).extractLsb' 25 7 = 0 := by
  refine ⟨?_, ?_, ?_, ?_, ?_⟩ <;> refine extractLsb'_statusWord fun k hk => ?_ <;>
    rw [getLsbD_statusWord s (by omega)] <;> interval_cases k <;> simp

theorem code_toNat_le (e : Err) : e.code.toNat ≤ 5 := by
  cases e <;> decide

/-- Settles O16: the fields are read off the bits of STATUS (`statusWord_flags`, `statusWord_fields`), and a write is
`writeStatus`. -/
theorem statusLayoutAndWrite : Obligations.StatusLayoutAndWrite := by
  unfold Obligations.StatusLayoutAndWrite
  refine ⟨fun s => ?layout, by decide, fun s v hidle => ?write⟩
  case layout =>
    obtain ⟨hlow, herr, hmid, hdistinct, hhigh⟩ := statusWord_fields s
    obtain ⟨hbusy, hkeyv, hbij, hminv, hovr⟩ := statusWord_flags s
    exact ⟨busRead_exact s (.inr rfl), hbusy, hkeyv, hbij, hminv, hovr, hlow, herr, code_toNat_le s.err, hmid, hdistinct,
      hhigh⟩
  case write =>
    have hwrite : busWrite .status v s = writeStatus v s := if_neg (by simp [hidle])
    rw [hwrite, writeStatus]
    cases v.getLsbD 4 <;> simp

/-! ### Reads (R46) -/

/-- A read while idle gives what the register holds and changes nothing. -/
theorem busRead_idle {s : State} (h : s.busy = false) (r : Reg) : busRead r s = (readReg r s, s) :=
  if_neg (by simp [h])

theorem serve_read32_idle {s : State} (h : s.busy = false) (r : Reg) :
    serve (read32 (offsetOf r)) s = (.readData (readReg r s), s) := by
  rw [serve_read32, busRead_idle h]

/-- The bits of a narrow register within the word it is read as, as they are (R32, R33). -/
theorem extractLsb'_setWidth {m n w : Nat} (v : BitVec m) (h : n + w ≤ 32) :
    (v.setWidth 32).extractLsb' n w = v.extractLsb' n w := by
  apply BitVec.eq_of_getLsbD_eq
  intro k hk
  have hword : n + k < 32 := by omega
  simp only [BitVec.getLsbD_extractLsb', BitVec.getLsbD_setWidth, hk, hword, decide_true, Bool.true_and]

/-- The bits past a narrow register, which are reserved and read 0 (R27). -/
theorem extractLsb'_setWidth_of_le {m n w : Nat} (v : BitVec m) (h : m ≤ n) : (v.setWidth 32).extractLsb' n w = 0 := by
  apply BitVec.eq_of_getLsbD_eq
  intro k hk
  have hpast : v.getLsbD (n + k) = false := BitVec.getLsbD_of_ge v (n + k) (by omega)
  simp [hpast]

/-- The byte lanes of a register of table entries (R34, R35, R43). -/
theorem extractLsb'_tableWord (t : Table) (k : Fin 64) (b : Fin 4) :
    (tableWord t k).extractLsb' (8 * b.val) 8 = t[4 * k.val + b.val] :=
  lane_tableWord t k b

/-- Settles O21: each offset is `offsetOf` of its register, which `serve_read32_idle` reads. -/
theorem idleReadsReturnTheRegisters : Obligations.IdleReadsReturnTheRegisters := by
  unfold Obligations.IdleReadsReturnTheRegisters
  intro s hidle
  have hread := serve_read32_idle hidle
  have hgfres : ((s.gfres).setWidth 32).extractLsb' 0 8 = s.gfres :=
    (extractLsb'_setWidth s.gfres (by decide)).trans BitVec.extractLsb'_eq_self
  exact ⟨hread .id, hread .cmd, hread .status, fun j => hread (.key j), fun j => hread (.din j), fun j => hread (.dout j),
    hread .mat0, hread .mat1,
    ⟨_, hread .gfop, extractLsb'_setWidth s.gfop (by decide), extractLsb'_setWidth s.gfop (by decide),
      extractLsb'_setWidth_of_le s.gfop (by decide)⟩,
    ⟨_, hread .gfres, hgfres, extractLsb'_setWidth_of_le s.gfres (by decide)⟩,
    fun k => ⟨_, hread (.sbox k), extractLsb'_tableWord s.sbox k⟩,
    fun k => ⟨_, hread (.invsbox k), extractLsb'_tableWord s.invsbox k⟩, fun k => hread (.rk k)⟩

/-- A read, served or not, leaves the state but for the count of draws (log entry 2). -/
theorem serve_read_state (s : State) (off : Offset) (size : Size) :
    (serve (.read off size) s).2 = { s with busyReads := (serve (.read off size) s).2.busyReads } := by
  rcases serve_cases (.read off size) s with h | ⟨r, -, h⟩ | ⟨r, v, ha, -⟩
  · rw [h]
  · rw [h]
    rcases busRead_state r s with hb | hb <;> rw [hb]
  · exact absurd ha nofun

/-- While idle a read takes no draw and leaves the whole state. -/
theorem serve_read_idle {s : State} (h : s.busy = false) (off : Offset) (size : Size) :
    (serve (.read off size) s).2 = s := by
  rcases serve_cases (.read off size) s with hs | ⟨r, -, hs⟩ | ⟨r, v, ha, -⟩
  · rw [hs]
  · rw [hs, busRead_idle h]
  · exact absurd ha nofun

/-- Settles O22: a read after another meets the same state. -/
theorem readsHaveNoSideEffect : Obligations.ReadsHaveNoSideEffect := by
  unfold Obligations.ReadsHaveNoSideEffect
  exact ⟨serve_read_state, fun s a b m n h => ⟨serve_read_idle h a m, by rw [serve_read_idle h b n]⟩⟩

/-! ### The reset values (R39) -/

/-- Settles O23: the flags and registers by computation, the vectors and tables entry by entry. -/
theorem resetValues : Obligations.ResetValues := by
  unfold Obligations.ResetValues
  refine ⟨rfl, rfl, rfl, rfl, rfl, rfl, rfl, rfl, rfl, fun j => ?words, rfl, rfl, rfl, rfl, fun i => ?tables,
    fun k => ?schedule⟩
  case words => simp [State.reset, State.afterReset]
  case tables => simp [State.reset, State.afterReset]
  case schedule => simp [State.reset, State.afterReset]

end Sys2Proof.Machine
end

section
/-! PROOFS. The field: the laws of the product (O25), which is additive in both factors and so decided by products of powers of
x, and the inverse (O26). -/

namespace Sys2Proof.Machine

/-! ### Bytes as sums of powers of x (R69) -/

/-- A byte is a sum of powers of x, so a property that sums keep holds of every byte if it holds of 0 and of the powers. -/
theorem byte_induction {P : Byte → Prop} (hzero : P 0) (hxor : ∀ a b, P a → P b → P (a ^^^ b))
    (hpow : ∀ i : Fin 8, P (BitVec.twoPow 8 i.val)) (a : Byte) : P a := by
  -- on the number of bits the byte fits in
  suffices h : ∀ n ≤ 8, ∀ a : Byte, (∀ k, n ≤ k → a.getLsbD k = false) → P a from
    h 8 le_rfl a fun k hk => BitVec.getLsbD_of_ge a k hk
  intro n
  induction n with
  | zero =>
    intro _ a ha
    have hz : a = 0 := BitVec.eq_of_getLsbD_eq fun k _ => (ha k (Nat.zero_le k)).trans BitVec.getLsbD_zero.symm
    exact hz ▸ hzero
  | succ n ih =>
    intro hn a ha
    cases hbit : a.getLsbD n with
    | false => exact ih (Nat.le_of_succ_le hn) a fun k hk => (Nat.eq_or_lt_of_le hk).elim (· ▸ hbit) (ha k)
    | true =>
      -- without its top power the byte fits in `n` bits
      have hsplit : a = (a ^^^ BitVec.twoPow 8 n) ^^^ BitVec.twoPow 8 n := by
        rw [BitVec.xor_assoc, BitVec.xor_self, BitVec.xor_zero]
      rw [hsplit]
      refine hxor _ _ (ih (Nat.le_of_succ_le hn) _ fun k hk => ?_) (hpow ⟨n, hn⟩)
      rcases Nat.eq_or_lt_of_le hk with rfl | hlt
      · have hn8 : n < 8 := hn
        rw [BitVec.getLsbD_xor, hbit, BitVec.getLsbD_twoPow, decide_eq_true hn8, decide_eq_true rfl]
        rfl
      · rw [BitVec.getLsbD_xor, ha k hlt, BitVec.getLsbD_twoPow, decide_eq_false hlt.ne, Bool.and_false]
        rfl

/-! ### The product is additive and so bilinear (R72) -/

/-- The loop of R71 on a sum of two second factors gives the sum of the two products, and the same power of x. -/
theorem gmul_fold_xor_right (b c : Byte) (l : List Nat) (p q t : Byte) :
    (l.foldl (gmulStep (b ^^^ c)) (p ^^^ q, t)).1 =
      (l.foldl (gmulStep b) (p, t)).1 ^^^ (l.foldl (gmulStep c) (q, t)).1 := by
  induction l generalizing p q t with
  | nil => rfl
  | cons i l ih =>
    have hstep : gmulStep (b ^^^ c) (p ^^^ q, t) i =
        ((gmulStep b (p, t) i).1 ^^^ (gmulStep c (q, t) i).1, xtime t) := by
      have hcancel : p ^^^ t ^^^ (q ^^^ t) = p ^^^ q := by
        rw [show p ^^^ t ^^^ (q ^^^ t) = p ^^^ q ^^^ (t ^^^ t) by ac_rfl, BitVec.xor_self, BitVec.xor_zero]
      simp only [gmulStep, BitVec.getLsbD_xor]
      cases b.getLsbD i <;> cases c.getLsbD i
      · rfl
      · exact congrArg (·, xtime t) (BitVec.xor_assoc p q t)
      · exact congrArg (·, xtime t) (show p ^^^ q ^^^ t = p ^^^ t ^^^ q by ac_rfl)
      · exact congrArg (·, xtime t) hcancel.symm
    rw [List.foldl_cons, List.foldl_cons, List.foldl_cons, hstep]
    exact ih _ _ (xtime t)

/-- The product is additive in its second factor. -/
theorem gmul_xor_right (a b c : Byte) : gmul a (b ^^^ c) = gmul a b ^^^ gmul a c := by
  have hfold := gmul_fold_xor_right b c (List.range 8) 0 0 a
  rwa [BitVec.xor_self] at hfold

theorem gmul_one_right (a : Byte) : gmul a 1 = a := by
  simp [gmul, List.range_succ, gmulStep]

/-- Two powers of x commute, and so do sums of them. -/
theorem gmul_comm (a b : Byte) : gmul a b = gmul b a := by
  induction a using byte_induction with
  | hzero => rw [gmul_zero_left, gmul_zero_right]
  | hxor a a' ha ha' => rw [gmul_xor_left, gmul_xor_right, ha, ha']
  | hpow i =>
    induction b using byte_induction with
    | hzero => rw [gmul_zero_left, gmul_zero_right]
    | hxor b b' hb hb' => rw [gmul_xor_left, gmul_xor_right, hb, hb']
    | hpow j =>
      revert i j
      decide

theorem gmul_one_left (a : Byte) : gmul 1 a = a := by
  rw [gmul_comm, gmul_one_right]

/-- Three powers of x associate, and so do sums of them. -/
theorem gmul_assoc (a b c : Byte) : gmul (gmul a b) c = gmul a (gmul b c) := by
  induction a using byte_induction with
  | hzero => simp only [gmul_zero_left]
  | hxor a a' ha ha' => simp only [gmul_xor_left, ha, ha']
  | hpow i =>
    induction b using byte_induction with
    | hzero => simp only [gmul_zero_left, gmul_zero_right]
    | hxor b b' hb hb' => simp only [gmul_xor_left, gmul_xor_right, hb, hb']
    | hpow j =>
      induction c using byte_induction with
      | hzero => simp only [gmul_zero_right]
      | hxor c c' hc hc' => simp only [gmul_xor_right, hc, hc']
      | hpow k =>
        revert i j k
        decide +kernel

/-! ### Inverses (R72, R73) -/

/-- What multiplies to 1 with a nonzero byte is its inverse. -/
theorem gmul_eq_one_iff {a : Byte} (h : a ≠ 0) (y : Byte) : gmul a y = 1 ↔ y = ginv a := by
  constructor
  · intro hy
    calc y = gmul (gmul a (ginv a)) y := by rw [gmul_ginv a h, gmul_one_left]
      _ = gmul (gmul (ginv a) a) y := by rw [gmul_comm a]
      _ = gmul (ginv a) (gmul a y) := gmul_assoc _ _ _
      _ = ginv a := by rw [hy, gmul_one_right]
  · rintro rfl
    exact gmul_ginv a h

theorem ginv_zero : ginv 0 = 0 := rfl

/-- An inverse is not 0, since its product with the byte is 1. -/
theorem ginv_ne_zero {a : Byte} (h : a ≠ 0) : ginv a ≠ 0 := by
  intro hz
  have hone := gmul_ginv a h
  rw [hz, gmul_zero_right] at hone
  exact absurd hone (by decide)

theorem ginv_ginv (a : Byte) : ginv (ginv a) = a := by
  by_cases h : a = 0
  · rw [h, ginv_zero, ginv_zero]
  · have hcomm : gmul (ginv a) a = 1 := by rw [gmul_comm, gmul_ginv a h]
    exact ((gmul_eq_one_iff (ginv_ne_zero h) a).1 hcomm).symm

/-- Settles O25: the product is bilinear, so its laws are those of the powers of x, and `gmul_eq_one_iff` gives the inverse. -/
theorem fieldProductLaws : Obligations.FieldProductLaws := by
  unfold Obligations.FieldProductLaws
  exact ⟨gmul_comm, gmul_assoc, gmul_xor_right, fun a => ⟨gmul_one_right a, gmul_zero_right a, gmul_two a⟩,
    fun a h => ⟨ginv a, gmul_ginv a h, fun z hz => (gmul_eq_one_iff h z).1 hz⟩⟩

/-- Settles O26: uniqueness is `gmul_eq_one_iff`, and an involution is a bijection. -/
theorem ginvIsTheUniqueInverse : Obligations.GinvIsTheUniqueInverse := by
  unfold Obligations.GinvIsTheUniqueInverse
  exact ⟨ginv_zero, fun a y h => gmul_eq_one_iff h y, ginv_ginv, fun y => ⟨ginv y, ginv_ginv y⟩⟩

end Sys2Proof.Machine
end

section
/-! PROOFS. The affine map as a product over GF(2) with a constant added: its bits and corollaries (O27), and that it is a
bijection exactly when the matrix is invertible (O29). -/

namespace Sys2Proof.Machine

/-! ### Bytes as vectors over GF(2) (R74) -/

/-- The vector whose element `i` is bit `i` of the byte. -/
def bitVector (y : Byte) : Fin 8 → ZMod 2 := fun i => gf2 (y.getLsbD i.val)

theorem gf2_injective : Function.Injective gf2 := by decide

theorem gf2_surjective : Function.Surjective gf2 := by decide

theorem bitVector_bijective : Function.Bijective bitVector := by
  refine ⟨fun y z h => BitVec.eq_of_getLsbD_eq fun i hi => gf2_injective (congrFun h ⟨i, hi⟩), fun v => ?_⟩
  refine ⟨BitVec.ofFnLE fun i => Function.surjInv gf2_surjective (v i), funext fun i => ?_⟩
  rw [bitVector, BitVec.getLsbD_ofFnLE, dif_pos i.isLt]
  exact Function.surjInv_eq gf2_surjective (v i)

theorem bitVector_xor (y z : Byte) : bitVector (y ^^^ z) = bitVector y + bitVector z := by
  funext i
  simp only [bitVector, BitVec.getLsbD_xor, gf2_xor, Pi.add_apply]

theorem gf2_xorBits (f : Fin 8 → Bool) : gf2 (xorBits f) = ∑ c, gf2 (f c) := by
  simp only [xorBits_eq, gf2_xor, Fin.sum_univ_eight]

/-- The matrix over GF(2) of the entries `M[r][c]` (R31), as R78's determinant has it. -/
def entryMatrix (m : AffineMatrix) : Matrix (Fin 8) (Fin 8) (ZMod 2) :=
  Matrix.of fun r c => if matEntry m r c then (1 : ZMod 2) else 0

/-- The affine map is the matrix–vector product with the constant added (R74). -/
theorem bitVector_affine (m : AffineMatrix) (y : Byte) :
    bitVector (affine m y) = (entryMatrix m).mulVec (bitVector y) + bitVector 0x63 := by
  funext r
  rw [bitVector, affine_getLsbD m y r r.isLt, gf2_xor, gf2_xorBits]
  simp only [gf2_and]
  rfl

/-- The product is linear and the constant is added once in each image (R76). -/
theorem affine_xor_affine (m : AffineMatrix) (y z : Byte) :
    affine m y ^^^ affine m z = affine m (y ^^^ z) ^^^ 0x63 := by
  apply bitVector_bijective.1
  simp only [bitVector_xor, bitVector_affine, Matrix.mulVec_add]
  abel

/-- Settles O27: the bits by `affine_getLsbD` with its sum written out, and a lemma for each corollary. -/
theorem affineMapAndCorollaries : Obligations.AffineMapAndCorollaries := by
  unfold Obligations.AffineMapAndCorollaries
  refine ⟨fun m y r => ?bit, affine_zero_right, affine_zero_left, affine_identity, affine_xor_affine⟩
  case bit =>
    rw [affine_getLsbD m y r r.isLt, xorBits_eq]
    rfl

/-! ### Bijective exactly when invertible (R76, R78) -/

theorem isUnit_entryMatrix_iff (m : AffineMatrix) : IsUnit (entryMatrix m) ↔ detParity m = true := by
  have hdet : (entryMatrix m).det = if detParity m then 1 else 0 := detParityIsTheDeterminant m
  rw [Matrix.isUnit_iff_isUnit_det, hdet]
  cases detParity m <;> simp

/-- The product is one to one exactly when its matrix is invertible, and bytes and vectors correspond. -/
theorem affine_injective_iff (m : AffineMatrix) : Function.Injective (affine m) ↔ detParity m = true := by
  have hcomp : bitVector ∘ affine m = (· + bitVector 0x63) ∘ (entryMatrix m).mulVec ∘ bitVector :=
    funext (bitVector_affine m)
  rw [← bitVector_bijective.1.of_comp_iff, hcomp, (add_left_injective _).of_comp_iff,
    Function.Injective.of_comp_iff' _ bitVector_bijective, Matrix.mulVec_injective_iff_isUnit, isUnit_entryMatrix_iff]

/-- Settles O29: on the finitely many bytes a one-to-one map is a bijection. -/
theorem affineIsBijectiveIffInvertible : Obligations.AffineIsBijectiveIffInvertible := by
  unfold Obligations.AffineIsBijectiveIffInvertible
  intro m
  rw [← Finite.injective_iff_bijective, affine_injective_iff]

end Sys2Proof.Machine
end

section
/-! PROOFS. The table CONSTRUCT builds (O35) and when it is a permutation (O36), and INVERT of a permutation (O40). -/

namespace Sys2Proof.Machine

/-! ### CONSTRUCT (R83, R84) -/

/-- A table with one value has one distinct value (R23). -/
theorem valueCount_of_constant {t : Table} {v : Byte} (h : ∀ x : Byte, lookup t x = v) : valueCount t = 1 := by
  have hentry : (fun i : Fin 256 => t[i]) = fun _ => v := funext fun i => h (BitVec.ofFin i)
  rw [valueCount, hentry, Finset.image_const Finset.univ_nonempty, Finset.card_singleton]

/-- The zero matrix makes every entry the constant (R83). -/
theorem lookup_constructTable_zero (x : Byte) : lookup (constructTable 0) x = 0x63 := by
  rw [lookup_constructTable, affine_zero_left]

theorem distinctField_constructTable_zero : distinctField (constructTable 0) = 1 := by
  apply BitVec.eq_of_toNat_eq
  rw [distinctField_toNat_eq_valueCount, valueCount_of_constant lookup_constructTable_zero]
  rfl

theorem bijective_eq_decide (t : Table) : bijective t = decide (distinctField t = 256) := by
  rw [Bool.eq_iff_iff, bijective_iff_distinctField, decide_eq_true_iff]

/-- Settles O35: `exec_construct` is the whole effect, and each field is what R23 and R83 say of the table. -/
theorem constructBuildsTheTable : Obligations.ConstructBuildsTheTable := by
  unfold Obligations.ConstructBuildsTheTable
  refine ⟨onlyWordOf_of_decode rfl (by decide), fun s =>
    ⟨constructTable (matrixOf s), distinctField (constructTable (matrixOf s)), ?effect, lookup_constructTable _,
      distinctField_toNat_eq_valueCount _, fun h0 h1 => ?zero⟩⟩
  case effect =>
    rw [exec_construct, recordBijectivity, bijective_eq_decide]
    rfl
  case zero =>
    have hzero : matrixOf s = 0 := by
      rw [matrixOf, h0, h1]
      rfl
    rw [hzero]
    exact ⟨distinctField_constructTable_zero, lookup_constructTable_zero⟩

/-- The table is the affine map after the inverse, which is a bijection, so it is a permutation exactly when the affine map is
one to one (R84). -/
theorem permutation_constructTable_iff (m : AffineMatrix) : Permutation (constructTable m) ↔ detParity m = true := by
  have hcomp : lookup (constructTable m) = affine m ∘ ginv := funext (lookup_constructTable m)
  have hinj : Permutation (constructTable m) ↔ Function.Injective (lookup (constructTable m)) := Iff.rfl
  rw [hinj, hcomp, Function.Injective.of_comp_iff' _ (Function.Involutive.bijective ginv_ginv), affine_injective_iff]

/-- Settles O36: BIJ and MINV both say that the matrix is invertible. -/
theorem constructIsBijectiveIffInvertible : Obligations.ConstructIsBijectiveIffInvertible := by
  unfold Obligations.ConstructIsBijectiveIffInvertible
  intro s
  have hperm := permutation_constructTable_iff (matrixOf s)
  have hbij : bijective (constructTable (matrixOf s)) = detParity (matrixOf s) := by
    rw [Bool.eq_iff_iff, bijective_iff_permutation, hperm]
  exact ⟨_, exec_construct s, hbij, hperm.symm⟩

/-! ### INVERT (R88) -/

/-- In a permutation every value is at one index, which is then the largest. -/
theorem lookup_invertTable_of_permutation {t : Table} (h : Permutation t) (x : Byte) :
    lookup (invertTable t) (lookup t x) = x :=
  lookup_invertTable_of_largest fun j hlt heq => absurd (congrArg BitVec.toNat (h j x heq)) hlt.ne'

/-- Every byte is a value of a permutation. -/
theorem exists_lookup_eq_of_permutation {t : Table} (h : Permutation t) (y : Byte) : ∃ x, lookup t x = y :=
  Finite.surjective_of_injective (f := lookup t) h y

/-- The one side is read at an index, the other at a value. -/
theorem inverseTables_invertTable {t : Table} (h : Permutation t) : InverseTables t (invertTable t) := by
  refine ⟨lookup_invertTable_of_permutation h, fun y => ?_⟩
  obtain ⟨x, rfl⟩ := exists_lookup_eq_of_permutation h y
  rw [lookup_invertTable_of_permutation h]

/-- Settles O40: INVERT leaves `invertTable` of SBOX in INVSBOX. -/
theorem invertUndoesAPermutation : Obligations.InvertUndoesAPermutation := by
  unfold Obligations.InvertUndoesAPermutation
  intro s h
  have hexec := exec_invert s
  have hinverse := inverseTables_invertTable h
  generalize invertTable s.sbox = u at hexec hinverse
  exact ⟨_, hexec, hinverse⟩

end Sys2Proof.Machine
end

section
/-! PROOFS. Each inverse transform undoes its forward one (O51), and so the reversed rounds undo the rounds (O54). The round
constants (O41). -/

namespace Sys2Proof.Machine

/-! ### Rows and keys (R98, R102) -/

theorem grid_ext {g h : Grid} (hcell : ∀ r c : Fin 4, g[r][c] = h[r][c]) : g = h :=
  Vector.ext fun r hr => Vector.ext fun c hc => hcell ⟨r, hr⟩ ⟨c, hc⟩

theorem shiftRows_invShiftRows (g : Grid) : shiftRows (invShiftRows g) = g :=
  grid_ext fun r c => by rw [getElem_shiftRows, getElem_invShiftRows_add]

theorem invShiftRows_shiftRows (g : Grid) : invShiftRows (shiftRows g) = g := by
  refine grid_ext fun r c => ?_
  -- every column is `r` past another one
  rw [← sub_add_cancel c r, getElem_invShiftRows_add, getElem_shiftRows]

theorem addRoundKey_addRoundKey (g : Grid) (rk : Schedule) (n : Fin 11) : addRoundKey (addRoundKey g rk n) rk n = g := by
  refine grid_ext fun r c => ?_
  rw [getElem_addRoundKey, getElem_addRoundKey, BitVec.xor_assoc, BitVec.xor_self, BitVec.xor_zero]

/-! ### Columns (R99) -/

/-- The first row of the product of two circulant matrices, from their first rows. -/
def circulantProduct (p q : Vector Byte 4) : Vector Byte 4 :=
  tabulate fun k => gmul p[0] q[k - 0] ^^^ gmul p[1] q[k - 1] ^^^ gmul p[2] q[k - 2] ^^^ gmul p[3] q[k - 3]

/-- The sum of four bytes taken from another start, in a circle. -/
theorem xor_rotate (f : Fin 4 → Byte) (r : Fin 4) :
    f (0 - r) ^^^ f (1 - r) ^^^ f (2 - r) ^^^ f (3 - r) = f 0 ^^^ f 1 ^^^ f 2 ^^^ f 3 := by
  fin_cases r
  · rfl
  · exact show f 3 ^^^ f 0 ^^^ f 1 ^^^ f 2 = _ by ac_rfl
  · exact show f 2 ^^^ f 3 ^^^ f 0 ^^^ f 1 = _ by ac_rfl
  · exact show f 1 ^^^ f 2 ^^^ f 3 ^^^ f 0 = _ by ac_rfl

/-- Entry `[r][k]` of the product: row `r` of the one matrix with column `k` of the other (R99). -/
theorem getElem_circulantProduct_sub (p q : Vector Byte 4) (k r : Fin 4) :
    (circulantProduct p q)[k - r] = gmul p[0 - r] q[k - 0] ^^^ gmul p[1 - r] q[k - 1] ^^^ gmul p[2 - r] q[k - 2] ^^^
      gmul p[3 - r] q[k - 3] := by
  have hsum := xor_rotate (fun j => gmul p[j] q[k - r - j]) r
  simp only [sub_sub_sub_cancel_right] at hsum
  rw [hsum, circulantProduct, Fin.getElem_fin, getElem_tabulate]
  rfl

/-- Multiplying by two circulant matrices is multiplying by their product. -/
theorem mulColumns_mulColumns (p q : Vector Byte 4) (g : Grid) :
    mulColumns p (mulColumns q g) = mulColumns (circulantProduct p q) g := by
  refine grid_ext fun r c => ?_
  simp only [getElem_mulColumns, gmul_xor_right, ← gmul_assoc, getElem_circulantProduct_sub, gmul_xor_left]
  ac_rfl

/-- The circulant matrix of 1, 0, 0, 0 is the identity. -/
theorem mulColumns_identity (g : Grid) : mulColumns #v[1, 0, 0, 0] g = g := by
  refine grid_ext fun r c => ?_
  have hsum := xor_rotate (fun k => gmul (#v[1, 0, 0, 0] : Vector Byte 4)[k] g[k + r][c]) r
  simp only [sub_add_cancel] at hsum
  rw [getElem_mulColumns, hsum]
  calc gmul 1 g[0 + r][c] ^^^ gmul 0 g[1 + r][c] ^^^ gmul 0 g[2 + r][c] ^^^ gmul 0 g[3 + r][c] = g[0 + r][c] := by
        simp only [gmul_one_left, gmul_zero_left]
        simp
    _ = g[r][c] := by simp only [zero_add]

theorem invMixColumns_mixColumns (g : Grid) : invMixColumns (mixColumns g) = g := by
  have hid : circulantProduct invMixRow mixRow = #v[1, 0, 0, 0] := by decide
  rw [invMixColumns, mixColumns, mulColumns_mulColumns, hid, mulColumns_identity]

theorem mixColumns_invMixColumns (g : Grid) : mixColumns (invMixColumns g) = g := by
  have hid : circulantProduct mixRow invMixRow = #v[1, 0, 0, 0] := by decide
  rw [invMixColumns, mixColumns, mulColumns_mulColumns, hid, mulColumns_identity]

/-- Settles O51. The column transforms undo each other because their coefficients' product is the identity. -/
theorem inverseTransformsUndo : Obligations.InverseTransformsUndo := by
  unfold Obligations.InverseTransformsUndo
  exact fun g rk n => ⟨invShiftRows_shiftRows g, shiftRows_invShiftRows g, invMixColumns_mixColumns g,
    mixColumns_invMixColumns g, addRoundKey_addRoundKey g rk n⟩

/-! ### The rest of a round (R95 to R97) -/

/-- The substitutions undo each other when the tables do. -/
theorem subBytes_subBytes {t u : Table} (h : ∀ x : Byte, lookup u (lookup t x) = x) (g : Grid) :
    subBytes (subBytes g t) u = g :=
  grid_ext fun r c => by rw [getElem_subBytes, getElem_subBytes, h]

theorem load_store (g : Grid) : load (store g) = g :=
  grid_ext fun r c => by rw [getElem_load, getElem_store]

theorem store_load (b : Block) : store (load b) = b := by
  ext1 k hk
  have hbyte : k % 4 + 4 * (k / 4) = k := Nat.mod_add_div k 4
  have hcell := getElem_store (load b) ⟨k % 4, by omega⟩ ⟨k / 4, by omega⟩
  rw [getElem_load] at hcell
  simpa only [hbyte] using hcell

/-! ### The rounds backwards (R110, R111, R114) -/

section
variable {t u : Table} (b : Block) (rk : Schedule)

/-- After `k` of its rounds InvCipher is where Cipher's round `10 - k` was before its column transform: each round undoes the
key addition and the columns of a round, and the rows and bytes of the one before. -/
theorem invCipherState_cipher (h : ∀ x : Byte, lookup u (lookup t x) = x) {k : Nat} (hk : k ≤ 9) :
    invCipherState (cipher b rk t) rk u k = shiftRows (subBytes (cipherState b rk t (9 - k)) t) := by
  induction k with
  | zero => rw [invCipherState, cipher_eq_lastRound, load_store, addRoundKey_addRoundKey]
  | succ k ih =>
    obtain ⟨n, hn⟩ : ∃ n, 9 - k = n + 1 := ⟨8 - k, by omega⟩
    have hprev : 9 - (k + 1) = n := by omega
    rw [invCipherState, ih (by omega), hn, hprev, invCipherRound, invShiftRows_shiftRows, subBytes_subBytes h, cipherState,
      cipherRound, addRoundKey_addRoundKey, invMixColumns_mixColumns]

theorem invCipher_cipher (h : ∀ x : Byte, lookup u (lookup t x) = x) : invCipher (cipher b rk t) rk u = b := by
  rw [invCipher_eq_lastRound, invCipherState_cipher b rk h le_rfl, invShiftRows_shiftRows, subBytes_subBytes h, Nat.sub_self,
    cipherState, addRoundKey_addRoundKey, store_load]

/-- After its round `k` Cipher is where InvCipher's next round was before its key addition. -/
theorem cipherState_invCipher (h : ∀ y : Byte, lookup t (lookup u y) = y) {k : Nat} (hk : k ≤ 9) :
    cipherState (invCipher b rk u) rk t k = subBytes (invShiftRows (invCipherState b rk u (9 - k))) u := by
  induction k with
  | zero => rw [cipherState, invCipher_eq_lastRound, load_store, addRoundKey_addRoundKey]
  | succ k ih =>
    obtain ⟨n, hn⟩ : ∃ n, 9 - k = n + 1 := ⟨8 - k, by omega⟩
    have hprev : 9 - (k + 1) = n := by omega
    have hround : 9 - n = k + 1 := by omega
    rw [cipherState, ih (by omega), hn, hprev, cipherRound, subBytes_subBytes h, shiftRows_invShiftRows, invCipherState,
      invCipherRound, mixColumns_invMixColumns, hround, addRoundKey_addRoundKey]

theorem cipher_invCipher (h : ∀ y : Byte, lookup t (lookup u y) = y) : cipher (invCipher b rk u) rk t = b := by
  rw [cipher_eq_lastRound, cipherState_invCipher b rk h le_rfl, subBytes_subBytes h, shiftRows_invShiftRows, Nat.sub_self,
    invCipherState, addRoundKey_addRoundKey, store_load]

end

/-- Settles O54: the second command works on the first one's block, with the same schedule and tables. -/
theorem decryptUndoesEncrypt : Obligations.DecryptUndoesEncrypt := by
  unfold Obligations.DecryptUndoesEncrypt
  rintro s hkey ⟨hundo, hredo⟩
  refine ⟨⟨_, _, exec_encrypt_of_keyv hkey, exec_decrypt_of_keyv hkey, ?encryptFirst⟩,
    ⟨_, _, exec_decrypt_of_keyv hkey, exec_encrypt_of_keyv hkey, ?decryptFirst⟩⟩
  case encryptFirst =>
    rw [blockOfWords_wordsOfBlock, invCipher_cipher _ _ hundo, wordsOfBlock_blockOfWords]
  case decryptFirst =>
    rw [blockOfWords_wordsOfBlock, cipher_invCipher _ _ hredo, wordsOfBlock_blockOfWords]

/-! ### The round constants (R89) -/

/-- Settles O41: each constant is the one before times x, and the first fifteen are computed. -/
theorem roundConstantsDouble : Obligations.RoundConstantsDouble := by
  unfold Obligations.RoundConstantsDouble
  exact ⟨rfl, fun _ => rfl, by decide⟩

end Sys2Proof.Machine
end

section
/-! PROOFS. The host's buffer procedures: EncryptBuffer is block by block (O58), DecryptBuffer refuses bad lengths (O59) and
undoes EncryptBuffer (O60). -/

namespace Sys2Proof.Machine

/-! ### Buffers and their blocks (R122) -/

/-- The bytes of blocks in order. -/
def joinBlocks (bs : List Block) : List Byte := (bs.map Vector.toList).flatten

theorem joinBlocks_cons (b : Block) (bs : List Block) : joinBlocks (b :: bs) = b.toList ++ joinBlocks bs := rfl

theorem length_joinBlocks (bs : List Block) : (joinBlocks bs).length = 16 * bs.length := by
  induction bs with
  | nil => rfl
  | cons b bs ih =>
    rw [joinBlocks_cons, List.length_append, ih, Vector.length_toList, List.length_cons]
    omega

/-- A buffer has a first whole block and its blocks are that one and those of the rest, or it is too short for one. -/
theorem blocksOf_cases (q : List Byte) :
    (∃ (b : Block) (rest : List Byte), q = b.toList ++ rest ∧ blocksOf q = b :: blocksOf rest) ∨
      (q.length < 16 ∧ blocksOf q = []) := by
  fun_cases blocksOf q with
  | case1 b0 b1 b2 b3 b4 b5 b6 b7 b8 b9 b10 b11 b12 b13 b14 b15 rest =>
    exact .inl ⟨#v[b0, b1, b2, b3, b4, b5, b6, b7, b8, b9, b10, b11, b12, b13, b14, b15], rest, rfl, rfl⟩
  | case2 q hshort =>
    refine .inr ⟨Nat.lt_of_not_le fun hlen => ?_, rfl⟩
    -- the first sixteen bytes and the rest
    exact hshort q[0] q[1] q[2] q[3] q[4] q[5] q[6] q[7] q[8] q[9] q[10] q[11] q[12] q[13] q[14] q[15] (q.drop 16)
      (by simp only [List.getElem_cons_drop, List.drop_zero])

theorem blocksOf_append (b : Block) (rest : List Byte) : blocksOf (b.toList ++ rest) = b :: blocksOf rest := by
  rcases blocksOf_cases (b.toList ++ rest) with ⟨b', rest', hsplit, hblocks⟩ | ⟨hshort, -⟩
  · obtain ⟨hb, hrest⟩ := List.append_inj hsplit (by rw [Vector.length_toList, Vector.length_toList])
    rw [hblocks, Vector.toList_inj.1 hb, hrest]
  · rw [List.length_append, Vector.length_toList] at hshort
    omega

/-- Cutting joined blocks gives them back. -/
theorem blocksOf_joinBlocks (bs : List Block) : blocksOf (joinBlocks bs) = bs := by
  induction bs with
  | nil => rfl
  | cons b bs ih => rw [joinBlocks_cons, blocksOf_append, ih]

/-- Whole blocks joined are the buffer. -/
theorem joinBlocks_blocksOf {q : List Byte} (h : q.length % 16 = 0) : joinBlocks (blocksOf q) = q := by
  induction hn : q.length using Nat.strong_induction_on generalizing q with
  | h n ih =>
    rcases blocksOf_cases q with ⟨b, rest, hsplit, hblocks⟩ | ⟨hshort, hblocks⟩
    · have hlen : q.length = 16 + rest.length := by rw [hsplit, List.length_append, Vector.length_toList]
      rw [hblocks, joinBlocks_cons, ih rest.length (by omega) (by omega) rfl, hsplit]
    · have hnil : q = [] := List.eq_nil_of_length_eq_zero (by omega)
      rw [hnil]
      rfl

/-! ### The driver on an idle machine (R68, log entry 12) -/

theorem driverWrite_idle {s : State} (h : s.busy = false) (r : Reg) (v : Word) : driverWrite r v s = writeReg r v s := by
  rw [driverWrite, serve_write32_idle h]

theorem foldl_driverWrite_din (ws : Vector Word 4) (js : List (Fin 4)) {s : State} (h : s.busy = false) :
    js.foldl (fun t j => driverWrite (.din j) ws[j] t) s = { s with din := setWords ws js s.din } := by
  induction js generalizing s with
  | nil => rfl
  | cons j js ih =>
    rw [List.foldl_cons, driverWrite_idle h]
    exact ih (s := writeReg (.din j) ws[j] s) h

theorem driverLoad_idle {s : State} (h : s.busy = false) (b : Block) :
    driverLoad b s = { s with din := wordsOfBlock b } := by
  rw [driverLoad, foldl_driverWrite_din _ _ h, setWords_finRange]

/-- EXEC accepts the command's word and performs it (R68). -/
theorem driverExec_idle {i : Instr} {s t : State} (h : s.busy = false) (hwf : WellFormed i)
    (hexec : exec i (accept (encode i) s) = .next t) : driverExec i s = t := by
  rw [driverExec, driverWrite_idle h, writeReg, awaitIdle, accept_pending]
  simp only [perform_of_ok _ (decodeWord_encode hwf), hexec]

theorem driverErr_eq (s : State) : driverErr s = s.err.code := by
  obtain ⟨-, herr, -⟩ := statusWord_fields s
  rw [driverErr, driverRead, serve_read32, busRead_exact s (.inr rfl)]
  exact herr

theorem driverReadBlock_idle {s : State} (h : s.busy = false) : driverReadBlock s = blockOfWords s.dout := by
  have hread (j : Fin 4) : driverRead (.dout j) s = s.dout[j] := by
    rw [driverRead, serve_read32_idle h]
    rfl
  rw [driverReadBlock]
  simp only [hread, tabulate_getElem]

/-- One block is the command on it, and the host reads its code and DOUT. -/
theorem driverBlock_of_exec {i : Instr} {s t : State} (h : s.busy = false) (hwf : WellFormed i) {b : Block}
    (hexec : exec i (accept (encode i) { s with din := wordsOfBlock b }) = .next t) :
    driverBlock i b s =
      if t.err.code = 0 then (.ok (blockOfWords t.dout), t) else (.error (.commandFailed t.err.code), t) := by
  have hidle : t.busy = false := by
    obtain ⟨c, u, hu, -⟩ := exec_writes i (accept (encode i) { s with din := wordsOfBlock b })
    cases hu.symm.trans hexec
    rfl
  rw [driverBlock, driverLoad_idle h, driverExec_idle (s := { s with din := wordsOfBlock b }) h hwf hexec, driverErr_eq,
    driverReadBlock_idle hidle]

theorem driverBlock_of_exec_none {i : Instr} {s t : State} (h : s.busy = false) (hwf : WellFormed i) {b out : Block}
    (hexec : exec i (accept (encode i) { s with din := wordsOfBlock b }) = .next t) (herr : t.err = .none)
    (hout : blockOfWords t.dout = out) : driverBlock i b s = (.ok out, t) := by
  rw [driverBlock_of_exec h hwf hexec, herr, hout]
  rfl

/-! ### Blocks through a valid schedule (R122, R123) -/

/-- `t` is idle with the schedule and tables of `s`, which is what the cipher reads. -/
def CipherReady (s t : State) : Prop :=
  t.busy = false ∧ t.keyv = s.keyv ∧ t.rk = s.rk ∧ t.sbox = s.sbox ∧ t.invsbox = s.invsbox

theorem cipherReady_of_idle {s : State} (h : Idle s) : CipherReady s s :=
  ⟨by simp [State.busy, h.1], rfl, rfl, rfl, rfl⟩

theorem driverBlock_encrypt {s t : State} (h : CipherReady s t) (hkey : s.keyv = true) (b : Block) :
    ∃ u, driverBlock .encrypt b t = (.ok (cipher b s.rk s.sbox), u) ∧ CipherReady s u := by
  obtain ⟨hidle, hkeyv, hrk, hsbox, hinv⟩ := h
  have hexec := exec_encrypt_of_keyv (s := accept (encode .encrypt) { t with din := wordsOfBlock b }) (hkeyv.trans hkey)
  refine ⟨_, driverBlock_of_exec_none hidle rfl hexec rfl ?_, rfl, hkeyv, hrk, hsbox, hinv⟩
  rw [blockOfWords_wordsOfBlock, accept_din, accept_rk, accept_sbox, hrk, hsbox, blockOfWords_wordsOfBlock]

theorem driverBlock_decrypt {s t : State} (h : CipherReady s t) (hkey : s.keyv = true) (b : Block) :
    ∃ u, driverBlock .decrypt b t = (.ok (invCipher b s.rk s.invsbox), u) ∧ CipherReady s u := by
  obtain ⟨hidle, hkeyv, hrk, hsbox, hinv⟩ := h
  have hexec := exec_decrypt_of_keyv (s := accept (encode .decrypt) { t with din := wordsOfBlock b }) (hkeyv.trans hkey)
  refine ⟨_, driverBlock_of_exec_none hidle rfl hexec rfl ?_, rfl, hkeyv, hrk, hsbox, hinv⟩
  rw [blockOfWords_wordsOfBlock, accept_din, accept_rk, accept_invsbox, hrk, hinv, blockOfWords_wordsOfBlock]

/-- Without a valid schedule ENCRYPT reports NO_KEY, code 3. -/
theorem driverBlock_encrypt_of_not_keyv {s : State} (h : s.busy = false) (hkey : s.keyv = false) (b : Block) :
    ∃ t, driverBlock .encrypt b s = (.error (.commandFailed 3), t) := by
  have hexec := exec_encrypt_of_not_keyv (s := accept (encode .encrypt) { s with din := wordsOfBlock b }) hkey
  have hcode : ¬ Err.noKey.code = 0 := by decide
  exact ⟨_, (driverBlock_of_exec h rfl hexec).trans (if_neg hcode)⟩

/-- Where each block is answered by `f`, blocks in order are answered by `f` of each. -/
theorem driverBlocks_of_forall {i : Instr} {f : Block → Block} {s : State}
    (hblock : ∀ t b, CipherReady s t → ∃ u, driverBlock i b t = (.ok (f b), u) ∧ CipherReady s u)
    (bs : List Block) {t : State} (h : CipherReady s t) :
    ∃ u, driverBlocks i bs t = (.ok (joinBlocks (bs.map f)), u) ∧ CipherReady s u := by
  induction bs generalizing t with
  | nil => exact ⟨t, rfl, h⟩
  | cons b bs ih =>
    obtain ⟨v, hv, hready⟩ := hblock t b h
    obtain ⟨u, hu, hready'⟩ := ih hready
    refine ⟨u, ?_, hready'⟩
    rw [driverBlocks, hv]
    simp only [hu]
    rfl

theorem encryptBuffer_of_keyv {s : State} (h : Idle s) (hkey : s.keyv = true) (p : List Byte) :
    ∃ t, encryptBuffer p s = (.ok (joinBlocks ((blocksOf (pad p)).map fun b => cipher b s.rk s.sbox)), t) ∧
      CipherReady s t :=
  driverBlocks_of_forall (fun _ b ht => driverBlock_encrypt ht hkey b) _ (cipherReady_of_idle h)

theorem length_pad_mod (p : List Byte) : (pad p).length % 16 = 0 := by
  rw [length_pad]
  omega

/-- As many blocks as the padded buffer has make as many bytes. -/
theorem length_joinBlocks_map (f : Block → Block) (p : List Byte) :
    (joinBlocks ((blocksOf (pad p)).map f)).length = (pad p).length := by
  rw [length_joinBlocks, List.length_map, ← length_joinBlocks, joinBlocks_blocksOf (length_pad_mod p)]

/-- Settles O58: with a schedule each block is answered by Cipher; without one the first block, which a padded buffer always
has, fails. -/
theorem encryptBufferIsBlockwise : Obligations.EncryptBufferIsBlockwise := by
  unfold Obligations.EncryptBufferIsBlockwise
  refine ⟨fun s p h hkey => ?withKey, fun s p h hkey => ?withoutKey⟩
  case withKey =>
    obtain ⟨t, ht, -⟩ := encryptBuffer_of_keyv h hkey p
    refine ⟨_, t, ht, ?_, (length_joinBlocks_map _ p).trans (length_pad p)⟩
    rw [joinBlocks, List.map_map]
    rfl
  case withoutKey =>
    have hidle : s.busy = false := (cipherReady_of_idle h).1
    have hlen := length_pad p
    rcases blocksOf_cases (pad p) with ⟨b, rest, -, hblocks⟩ | ⟨hshort, -⟩
    · obtain ⟨t, hfirst⟩ := driverBlock_encrypt_of_not_keyv hidle hkey b
      rw [encryptBuffer, hblocks, driverBlocks, hfirst]
    · omega

/-! ### DecryptBuffer (R123, R125) -/

/-- Settles O59: the length is looked at first, and the report folds it like any failure. -/
theorem decryptBufferRefusesBadLengths : Obligations.DecryptBufferRefusesBadLengths := by
  unfold Obligations.DecryptBufferRefusesBadLengths
  intro h c s hlen
  rw [decryptBuffer, decryptBufferPrecise, if_pos hlen]
  rfl

/-- A buffer of whole blocks that is not empty is decrypted block by block and unpadded. -/
theorem decryptBuffer_of_keyv (h : HostParams) {s t : State} (ht : CipherReady s t) (hkey : s.keyv = true)
    {bs : List Block} (hne : bs ≠ []) :
    (decryptBuffer h (joinBlocks bs) t).1 =
      reportDecrypt h (unpad h (joinBlocks (bs.map fun b => invCipher b s.rk s.invsbox))) := by
  obtain ⟨u, hu, -⟩ := driverBlocks_of_forall (fun _ b ht => driverBlock_decrypt ht hkey b) bs ht
  have hpos : 0 < bs.length := List.length_pos_iff.2 hne
  have hlen : ¬ ((joinBlocks bs).length = 0 ∨ (joinBlocks bs).length % 16 ≠ 0) := by
    rw [length_joinBlocks]
    omega
  rw [decryptBuffer, decryptBufferPrecise, if_neg hlen, blocksOf_joinBlocks, hu]

/-- Settles O60: each block comes back through InvCipher, so the padded buffer does, and unpadding it gives the buffer. -/
theorem buffersRoundTrip : Obligations.BuffersRoundTrip := by
  unfold Obligations.BuffersRoundTrip
  rintro h s p hidle hkey ⟨hundo, -⟩
  obtain ⟨t, ht, hready⟩ := encryptBuffer_of_keyv hidle hkey p
  refine ⟨_, t, ht, ?_⟩
  have hblocks : blocksOf (pad p) ≠ [] := by
    intro hnil
    have hlen := length_joinBlocks_map id p
    rw [hnil, length_pad] at hlen
    simp [joinBlocks] at hlen
    omega
  have hback : (fun b => invCipher b s.rk s.invsbox) ∘ (fun b => cipher b s.rk s.sbox) = id :=
    funext fun b => invCipher_cipher b s.rk hundo
  rw [decryptBuffer_of_keyv h hready hkey (mt List.map_eq_nil_iff.1 hblocks), List.map_map, hback, List.map_id,
    joinBlocks_blocksOf (length_pad_mod p), unpad_pad]
  rfl

end Sys2Proof.Machine
end
